-- ==== Sys2Proof/Word.lean ====
section
/-! DEFINITION. The words of the block: bytes, register words, counters, and the two ways the spec narrows or widens a
number (R9). No value is signed. -/

namespace Sys2Proof

/-- A byte, 0 to 255, unsigned (R9). -/
abbrev Byte := BitVec 8

/-- A register word (R49). -/
abbrev Word := BitVec 32

/-- An event counter, `CNT_W = 16` bits (R7, R26). -/
abbrev Counter := BitVec 16

/-- `u8(v)`: `v mod 256` for any integer, a negative one included (R9). -/
def u8 (v : Int) : Byte := BitVec.ofInt 8 v

/-- `zext_32(v)`: zero bits on the left up to 32 bits (R9). -/
def zext32 {n : Nat} (v : BitVec n) : Word := v.setWidth 32

end Sys2Proof
end

