-- ==== Sys2Proof/Syntax.lean ====
section
/-! DEFINITION. The operations of the block, one constructor per row of spec/opcode_table.json, and the words and signals of
its ports (R67 to R74). -/

namespace Sys2Proof

/-- The operations (R2): port operations and internal steps, in the table's order. -/
inductive Instr where
  /-- IN_BYTE (R99): a byte that is not the last of its read. -/
  | inByte (d : Byte)
  /-- IN_LAST (R100): the last byte of its read. -/
  | inLast (d : Byte)
  /-- IN_ERR (R105): the read failed; the low nine bits of the word are ignored (R75). -/
  | inErr (ignored : BitVec 9)
  /-- OUT_BYTE (R117): the consumer takes a byte of the head frame that is not its last. -/
  | outByte (d : Byte)
  /-- OUT_LAST (R118): the consumer takes the last byte of the head frame. -/
  | outLast (d : Byte)
  /-- WR_CTRL (R129) with the operand `reg_wdata`. -/
  | wrCtrl (wdata : Word)
  /-- WR_IGNORED (R128): a write to an address other than 0x00. -/
  | wrIgnored (addr : Byte) (wdata : Word)
  /-- RD_CTRL (R130). -/
  | rdCtrl
  /-- RD_STATUS (R131). -/
  | rdStatus
  /-- RD_QCOUNT (R132). -/
  | rdQcount
  /-- RD_WPOS (R133). -/
  | rdWpos
  /-- RD_CNT_FRAMES (R134). -/
  | rdCntFrames
  /-- RD_CNT_ZLEN (R135). -/
  | rdCntZlen
  /-- RD_CNT_CSUM (R136). -/
  | rdCntCsum
  /-- RD_CNT_OVF (R137). -/
  | rdCntOvf
  /-- RD_PARAMS (R138). -/
  | rdParams
  /-- RD_ID (R139). -/
  | rdId
  /-- RD_RSVD (R140): a read of an address that names no register. -/
  | rdRsvd (addr : Byte)
  /-- EVAL (R102): steps 4 to 8 for the read that just ended. -/
  | eval
  /-- STOP_DONE (R106): the cooperative stop takes effect. -/
  | stopDone
  /-- SYNC_P2C (R119), advancing `wrSeenC` to `v`, which the rule leaves to the step. -/
  | syncP2c (v : Nat)
  /-- SYNC_C2P (R120), advancing `rdSeenP` to `v`, which the rule leaves to the step. -/
  | syncC2p (v : Nat)
  /-- RESET (R160). -/
  | reset
  deriving DecidableEq, Repr

/-- A word on one of the three ports that have words (R68, R69, R70). The words of different ports are the same numbers:
only the port tells them apart. -/
inductive PortWord where
  /-- `IN = {in_err, in_last, in_data}` (R68). -/
  | input (w : BitVec 10)
  /-- `OUT = {out_last, out_data}` (R69). -/
  | output (w : BitVec 9)
  /-- `REG = {reg_we, reg_addr}` and `reg_wdata` (R70). -/
  | register (header : BitVec 9) (wdata : Word)
  deriving DecidableEq, Repr

/-- A register access requested in a cycle, `reg_req = 1` (R70). -/
structure RegReq where
  we    : Bool
  addr  : Byte
  wdata : Word
  deriving DecidableEq, Repr, Inhabited

/-- Which clock has an edge (R122). With `ASYNC_FIFO = 0` there is one clock and the field is not read (R121). -/
inductive Edge where
  | clkP
  | clkC
  deriving DecidableEq, Repr, Inhabited

/-- What the neighbours offer and the internal steps choose in one cycle (R12, R107): the input signals of R67, R69, R70 and
R159, and the scheduling choices that R104, R119 and R120 leave open. Not state of the block (R15). -/
structure Tick where
  /-- `rst_n = 0` (R159). -/
  rst      : Bool
  /-- The clock whose edge this is, when there are two (R122). -/
  edge     : Edge
  /-- The register access, `none` when `reg_req = 0` (R72). -/
  reg      : Option RegReq
  /-- The offered input word, `none` when `in_valid = 0` (R67). -/
  beat     : Option (BitVec 10)
  /-- An enabled EVAL is taken in this cycle (R104); `FairRun` says that it is taken in some cycle (R8). -/
  evalNow  : Bool
  /-- SYNC_C2P is taken in this `clk_p` cycle, to this count (R120). -/
  syncC2p  : Option Nat
  /-- The consumer accepts a byte, `out_ready` (R69). -/
  outReady : Bool
  /-- SYNC_P2C is taken in this `clk_c` cycle, to this count (R119). -/
  syncP2c  : Option Nat
  deriving DecidableEq, Repr, Inhabited

/-- A cycle in which no neighbour offers anything and no internal step with a free delay is taken. -/
def Tick.idle : Tick :=
  { rst := false, edge := .clkP, reg := none, beat := none, evalNow := false, syncC2p := none, outReady := false,
    syncP2c := none }

end Sys2Proof
end

