-- ==== Sys2Proof/WellFormed.lean ====
section
/-! DEFINITION. Which operations the operation map can select (R68 to R74): only the two "any other address" rows of R72 exclude
operand values. -/

namespace Sys2Proof

/-- The register addresses that R32 names, in its order. -/
def namedAddresses : List Byte :=
  [0x00, 0x04, 0x08, 0x0C, 0x10, 0x14, 0x18, 0x1C, 0x20, 0x24]

/-- `i` is selected by some word, or is an internal step: WR_IGNORED has an address other than 0x00 and RD_RSVD one that names no
register (R72). -/
def Instr.wf : Instr → Bool
  | .inByte _ => true
  | .inLast _ => true
  | .inErr _ => true
  | .outByte _ => true
  | .outLast _ => true
  | .wrCtrl _ => true
  | .wrIgnored addr _ => addr != 0
  | .rdCtrl => true
  | .rdStatus => true
  | .rdQcount => true
  | .rdWpos => true
  | .rdCntFrames => true
  | .rdCntZlen => true
  | .rdCntCsum => true
  | .rdCntOvf => true
  | .rdParams => true
  | .rdId => true
  | .rdRsvd addr => !namedAddresses.contains addr
  | .eval => true
  | .stopDone => true
  | .syncP2c _ => true
  | .syncC2p _ => true
  | .reset => true

end Sys2Proof
end

