-- ==== Sys2Proof/Decode.lean ====
section
/-! DEFINITION. From port words to operations and back (R68 to R76), and the row patterns of spec/opcode_table.json. -/

namespace Sys2Proof

/-- The operation an input beat word selects (R68). -/
def decodeIn (w : BitVec 10) : Instr :=
  if w.getLsbD 9 then .inErr (w.extractLsb' 0 9)
  else if w.getLsbD 8 then .inLast (w.extractLsb' 0 8)
  else .inByte (w.extractLsb' 0 8)

/-- The operation an output word selects (R69). -/
def decodeOut (w : BitVec 9) : Instr :=
  if w.getLsbD 8 then .outLast (w.extractLsb' 0 8) else .outByte (w.extractLsb' 0 8)

/-- The read an address selects, the first row of R72 that matches. -/
def decodeRead (addr : Byte) : Instr :=
  if addr = 0x00 then .rdCtrl
  else if addr = 0x04 then .rdStatus
  else if addr = 0x08 then .rdQcount
  else if addr = 0x0C then .rdWpos
  else if addr = 0x10 then .rdCntFrames
  else if addr = 0x14 then .rdCntZlen
  else if addr = 0x18 then .rdCntCsum
  else if addr = 0x1C then .rdCntOvf
  else if addr = 0x20 then .rdParams
  else if addr = 0x24 then .rdId
  else .rdRsvd addr

/-- The operation a register header word selects, with its write data (R72, R76). -/
def decodeReg (header : BitVec 9) (wdata : Word) : Instr :=
  if header.getLsbD 8 then
    if header.extractLsb' 0 8 = 0 then .wrCtrl wdata else .wrIgnored (header.extractLsb' 0 8) wdata
  else decodeRead (header.extractLsb' 0 8)

/-- Every word on every port selects an operation (R75). -/
def decode : PortWord → Instr
  | .input w => decodeIn w
  | .output w => decodeOut w
  | .register h wdata => decodeReg h wdata

/-- `REG = {reg_we, reg_addr}` (R70). -/
def regHeader (we : Bool) (addr : Byte) : BitVec 9 := BitVec.ofBool we ++ addr

/-- `OUT = {out_last, out_data}` (R69). -/
def outWordOf (last : Bool) (d : Byte) : BitVec 9 := BitVec.ofBool last ++ d

/-- The word that selects an operation; an internal step has none (R74). -/
def encode : Instr → Option PortWord
  | .inByte d => some (.input (0b00#2 ++ d))
  | .inLast d => some (.input (0b01#2 ++ d))
  | .inErr x => some (.input (0b1#1 ++ x))
  | .outByte d => some (.output (outWordOf false d))
  | .outLast d => some (.output (outWordOf true d))
  | .wrCtrl wdata => some (.register (regHeader true 0x00) wdata)
  | .wrIgnored addr wdata => some (.register (regHeader true addr) wdata)
  | .rdCtrl => some (.register (regHeader false 0x00) 0)
  | .rdStatus => some (.register (regHeader false 0x04) 0)
  | .rdQcount => some (.register (regHeader false 0x08) 0)
  | .rdWpos => some (.register (regHeader false 0x0C) 0)
  | .rdCntFrames => some (.register (regHeader false 0x10) 0)
  | .rdCntZlen => some (.register (regHeader false 0x14) 0)
  | .rdCntCsum => some (.register (regHeader false 0x18) 0)
  | .rdCntOvf => some (.register (regHeader false 0x1C) 0)
  | .rdParams => some (.register (regHeader false 0x20) 0)
  | .rdId => some (.register (regHeader false 0x24) 0)
  | .rdRsvd addr => some (.register (regHeader false addr) 0)
  | .eval => none
  | .stopDone => none
  | .syncP2c _ => none
  | .syncC2p _ => none
  | .reset => none

/-- A port word as the table numbers it, bit 0 its least significant bit; the write data is no part of it. -/
def PortWord.tableBits : PortWord → Nat
  | .input w => w.toNat
  | .output w => w.toNat
  | .register h _ => h.toNat

/-- `match` and `mask` of the operation's row in spec/opcode_table.json; `none` for the rows of format INTERNAL. -/
def Instr.tableRow : Instr → Option (Nat × Nat)
  | .inByte _ => some (0x000, 0x300)
  | .inLast _ => some (0x100, 0x300)
  | .inErr _ => some (0x200, 0x200)
  | .outByte _ => some (0x000, 0x100)
  | .outLast _ => some (0x100, 0x100)
  | .wrCtrl _ => some (0x100, 0x1FF)
  | .wrIgnored _ _ => some (0x100, 0x100)
  | .rdCtrl => some (0x000, 0x1FF)
  | .rdStatus => some (0x004, 0x1FF)
  | .rdQcount => some (0x008, 0x1FF)
  | .rdWpos => some (0x00C, 0x1FF)
  | .rdCntFrames => some (0x010, 0x1FF)
  | .rdCntZlen => some (0x014, 0x1FF)
  | .rdCntCsum => some (0x018, 0x1FF)
  | .rdCntOvf => some (0x01C, 0x1FF)
  | .rdParams => some (0x020, 0x1FF)
  | .rdId => some (0x024, 0x1FF)
  | .rdRsvd _ => some (0x000, 0x100)
  | .eval => none
  | .stopDone => none
  | .syncP2c _ => none
  | .syncC2p _ => none
  | .reset => none

/-- The three ports that have words. -/
inductive Port where
  | input
  | output
  | register
  deriving DecidableEq, Repr

/-- Why a number is no word of a port. -/
inductive DecodeError where
  /-- The number has a bit set above the port's word: 10 bits for IN, 9 for OUT and REG (R68, R69, R70). Safe. -/
  | wordTooWide (p : Port) (w : Nat)
  deriving DecidableEq, Repr

/-- A number read as a word of a port, write data 0; rejected by name when it is too wide. -/
def portWordOf (p : Port) (w : Nat) : Except DecodeError PortWord :=
  match p with
  | .input => if w < 2 ^ 10 then .ok (.input (BitVec.ofNat 10 w)) else .error (.wordTooWide p w)
  | .output => if w < 2 ^ 9 then .ok (.output (BitVec.ofNat 9 w)) else .error (.wordTooWide p w)
  | .register => if w < 2 ^ 9 then .ok (.register (BitVec.ofNat 9 w) 0) else .error (.wordTooWide p w)

/-- A number decoded as a word of a port. -/
def decodeWord (p : Port) (w : Nat) : Except DecodeError Instr := (portWordOf p w).map decode

/-- The port word that a bare table number stands for when nobody says which port it is on. The table's words of different ports
are the same numbers, so a convention is needed: a number of at most 9 bits is a register header, one with bit 9 set an input beat
(DESIGN CHOICE, notes/assumptions/4.md). -/
def tablePortWord (nbits w : Nat) : Option PortWord :=
  if 2 ^ nbits ≤ w then none
  else (portWordOf (if w < 2 ^ 9 then .register else .input) w).toOption

/-- The operation a bare table number stands for, under the convention of `tablePortWord`. -/
def decodeTableWord (nbits w : Nat) : Option Instr := (tablePortWord nbits w).map decode

end Sys2Proof
end

