-- ==== Sys2Proof/Config.lean ====
section
/-! DEFINITION. What a build fixes (R7, R44, R55) and the free values: what the neighbours do beyond the cycles a state has
placed. -/

namespace Sys2Proof.Config

/-- `SENTINEL`, fixed 0x13 (R7). -/
def sentinel : Byte := 0x13

/-- `MAX_FRAME`, the largest frame: 255 + 3 (R7). -/
def maxFrame : Nat := 258

/-- The build-time parameters (R7), carried unchanged by the state so that every build is covered. -/
structure Build where
  /-- `BUF_BYTES`. -/
  bufBytes  : Nat
  /-- `Q_FRAMES`. -/
  qFrames   : Nat
  /-- `ASYNC_FIFO`. -/
  asyncFifo : Bool
  deriving DecidableEq, Repr

/-- The ranges of R7; a build outside them is refused (D17). -/
def Build.legal (b : Build) : Bool :=
  decide (258 ≤ b.bufBytes) && decide (b.bufBytes ≤ 65535) && decide (1 ≤ b.qFrames) && decide (b.qFrames ≤ 255)

/-- The reference values of R7. -/
def Build.reference : Build := { bufBytes := 512, qFrames := 4, asyncFifo := false }

/-- What the neighbours offer, and which internal steps are chosen, in the `n`-th cycle that no state has placed: FREE, nothing is
known of it (R8, R12; notes/assumptions/2.md). -/
opaque freeTick : Nat → Tick

/-- `FSCV_BASE`, where the register space sits in a system: OPEN, FREE (R55; notes/assumptions/12.md). -/
opaque fscvBase : Nat

/-- The system address of a register: every register address of the spec is an offset from `FSCV_BASE` (R55). -/
def systemAddress (offset : Byte) : Nat := fscvBase + offset.toNat

end Sys2Proof.Config
end

