-- ==== Sys2Proof/Machine/Frame.lean ====
section
/-! DEFINITION. The frame functions (R82 to R91): length, completeness, checksum and split, as functions of a byte list. A function
the spec defines only on some lists answers `none` on the others (93 I2, I3). -/

namespace Sys2Proof.Machine

open Sys2Proof

/-- `sum(xs)`, the exact sum (R10). -/
def sumBytes (xs : List Byte) : Nat := (xs.map BitVec.toNat).sum

/-- `sum8(xs) = u8(sum(xs))` (R10). -/
def sum8 (xs : List Byte) : Byte := u8 (sumBytes xs)

/-- R82. -/
def isLengthByteRead (xs : List Byte) : Bool := decide (2 ≤ xs.length)

/-- R83: `xs[1] + 3`, defined when the length byte is present. -/
def packetLength : List Byte → Option Nat
  | _ :: len :: _ => some (len.toNat + 3)
  | _ => none

/-- R84. -/
def isCompletePacket (xs : List Byte) : Bool :=
  match packetLength xs with
  | some L => decide (L ≤ xs.length)
  | none => false

/-- R85. -/
def isZeroLength : List Byte → Bool
  | _ :: len :: _ => decide (len = 0)
  | _ => false

/-- R86: the 8-bit sum of the first `packetLength` bytes, defined on a complete frame. -/
def frameSum (xs : List Byte) : Option Byte :=
  match packetLength xs with
  | some L => if L ≤ xs.length then some (sum8 (xs.take L)) else none
  | none => none

/-- R87: false on an incomplete frame, undefined before the length byte. -/
def validChecksum (xs : List Byte) : Option Bool :=
  if isLengthByteRead xs then
    some (if isCompletePacket xs then decide (frameSum xs = some 0) else false)
  else none

/-- R88: defined when the range lies in the list. -/
def calculateChecksum (bs : List Byte) (start count : Nat) : Option Byte :=
  if start + count ≤ bs.length then some (u8 (0 - (sumBytes ((bs.drop start).take count) : Int))) else none

/-- The leftover R89 keeps: all of it when it begins with the sentinel, else nothing. -/
def keptLeftover (rest : List Byte) : List Byte :=
  if rest.head? = some Config.sentinel then rest else []

/-- R89, `nextPacket`: the frame and the leftover kept, defined on a complete frame. -/
def split (xs : List Byte) : Option (List Byte × List Byte) :=
  match packetLength xs with
  | some L => if L ≤ xs.length then some (xs.take L, keptLeftover (xs.drop L)) else none
  | none => none

end Sys2Proof.Machine
end

