-- ==== Sys2Proof/Machine/State.lean ====
section
/-! DEFINITION. Everything the spec gives the block to hold (R15), as plain data, and its reset value (R43). -/

namespace Sys2Proof.Machine

open Sys2Proof

/-- `mode` (R18): the encodings 0, 1 and 2; encoding 3 is never held, so it is not a value. -/
inductive Mode where
  | stopped
  | run
  | fail
  deriving DecidableEq, Repr

/-- The error kinds (R73); the codes 0 and 5 to 7 are never produced, so they are no kinds. -/
inductive ErrKind where
  | zeroLength
  | checksum
  | transport
  | bufOverflow
  deriving DecidableEq, Repr

/-- The state. The fields from `mode` to `errOut` are the tuple of R15, under the spec's names; `regRdata` is the register port's
held read data (R70, R160). -/
structure State where
  /-- The parameters of R7: configuration, no operation changes them. -/
  build       : Config.Build
  /-- R18. -/
  mode        : Mode
  /-- The working frame (R19). -/
  W           : List Byte
  /-- R20. -/
  inRead      : Bool
  /-- R21. -/
  scanning    : Bool
  /-- R22. -/
  ovf         : Bool
  /-- R23. -/
  evalPending : Bool
  /-- R24. -/
  stopReq     : Bool
  /-- The committed frames not yet popped, oldest first (R25). -/
  Q           : List (List Byte)
  /-- Frames committed since reset (R25). -/
  wrCnt       : Nat
  /-- Frames popped, as the producer domain has seen it (R25). -/
  rdSeenP     : Nat
  /-- Frames popped since reset (R25). -/
  rdCnt       : Nat
  /-- Frames committed, as the consumer domain has seen it (R25). -/
  wrSeenC     : Nat
  /-- Index of the next byte of the head frame (R25). -/
  rdOff       : Nat
  /-- R26. -/
  cntFrames   : Counter
  /-- R26. -/
  cntZlen     : Counter
  /-- R26. -/
  cntCsum     : Counter
  /-- R26. -/
  cntOvf      : Counter
  /-- R27. -/
  stkZlen     : Bool
  /-- R27. -/
  stkCsum     : Bool
  /-- R27. -/
  stkOvf      : Bool
  /-- R27. -/
  stkXport    : Bool
  /-- The error event register (R28): `none` is the pair (0, 0), `some k` the pair (1, code of k). -/
  errOut      : Option ErrKind
  /-- `reg_rdata` (R70). -/
  regRdata    : Word
  /-- The model's own: what the neighbours offer in the coming cycles, oldest first (notes/assumptions/2.md). -/
  pending     : List Tick
  /-- The model's own: how many cycles were drawn from `Config.freeTick` (notes/assumptions/2.md). -/
  drawn       : Nat
  deriving DecidableEq, Repr

/-- The state after reset of a build (R43, R160); nothing is placed. -/
def State.resetOf (b : Config.Build) : State :=
  { build := b, mode := .stopped, W := [], inRead := false, scanning := false, ovf := false, evalPending := false,
    stopReq := false, Q := [], wrCnt := 0, rdSeenP := 0, rdCnt := 0, wrSeenC := 0, rdOff := 0, cntFrames := 0, cntZlen := 0,
    cntCsum := 0, cntOvf := 0, stkZlen := false, stkCsum := false, stkOvf := false, stkXport := false, errOut := none,
    regRdata := 0, pending := [], drawn := 0 }

/-- The state after reset, for the reference build of R7 (DESIGN CHOICE, notes/assumptions/1.md). -/
def State.reset : State := State.resetOf Config.Build.reference

/-- Why a step stops. Both reasons arise only in states that violate R31, which no run reaches. -/
inductive Fault where
  /-- Raised by OUT_BYTE, OUT_LAST and a consumer cycle when `out_valid = 1` and `Q[0][rdOff]` does not exist (R116 says it does).
  Safe: the model stops where the spec describes no block. -/
  | headByteMissing
  /-- Raised by EVAL if it used `frameSum` or `split` on a list they are not defined on (R83, R86, R89; 93 I2, I3 treat it as a fault);
  EVAL tests first, so it never does. Safe. -/
  | frameFunctionUndefined
  deriving DecidableEq, Repr

/-- Why a step has no meaning. -/
inductive Refusal where
  /-- Raised by `exec` for an instruction without a meaning yet; no arm does. Safe. -/
  | notModelled (mnemonic : String)
  /-- Raised by `step` for a build outside the ranges of R7: no block is defined for it (D17, 93 U8). Safe. -/
  | illegalBuild
  deriving DecidableEq, Repr

/-- The outcome of an operation. -/
abbrev Result := Host.Outcome State Fault Refusal

end Sys2Proof.Machine
end

