-- ==== Sys2Proof/Machine/Flags.lean ====
section
/-! DEFINITION. The flags: functions of the state that STATUS shows and the operations test (R29, R34, R115). A difference of counts is
exact, so it is an integer (R9). -/

namespace Sys2Proof.Machine

open Sys2Proof

/-- The encoding of `mode` (R18). -/
def Mode.bits : Mode → BitVec 2
  | .stopped => 0
  | .run => 1
  | .fail => 2

/-- The error codes (R73). -/
def ErrKind.code : ErrKind → BitVec 3
  | .zeroLength => 1
  | .checksum => 2
  | .transport => 3
  | .bufOverflow => 4

/-- `LEN_PRESENT` (R29). -/
def lenPresent (s : State) : Bool := isLengthByteRead s.W

/-- `COMPLETE` (R29). -/
def complete (s : State) : Bool := isCompletePacket s.W

/-- `W_EMPTY` (R34). -/
def wEmpty (s : State) : Bool := decide (s.W.length = 0)

/-- The queue occupancy the producer domain sees (R115). -/
def pCount (s : State) : Int := (s.wrCnt : Int) - s.rdSeenP

/-- The frames the consumer domain may output (R116). -/
def cCount (s : State) : Int := (s.wrSeenC : Int) - s.rdCnt

/-- `Q_EMPTY` (R34, R115). -/
def qEmpty (s : State) : Bool := decide (pCount s = 0)

/-- `Q_FULL` (R34, R115). -/
def qFull (s : State) : Bool := decide (pCount s = s.build.qFrames)

/-- The queue has room as the producer sees it (R103). -/
def hasRoom (s : State) : Bool := decide (pCount s < s.build.qFrames)

/-- An increment that stops at 0xFFFF (R26). -/
def satInc (c : Counter) : Counter := BitVec.ofNat 16 (min (c.toNat + 1) 0xFFFF)

end Sys2Proof.Machine
end

