-- ==== Sys2Proof/Machine/Operands.lean ====
section
/-! DEFINITION. The signals and words the block shows: port outputs (R67 to R71, R97, R116) and the register read values assembled
from their fields (R33 to R40, R76, R130 to R140). -/

namespace Sys2Proof.Machine

open Sys2Proof

/-- `in_ready` (R97). -/
def inReady (s : State) : Bool := decide (s.mode = .run) && !s.evalPending && !(s.stopReq && !s.inRead)

/-- `out_valid` (R116). -/
def outValid (s : State) : Bool := decide (0 < cCount s)

/-- The byte `Q[0][rdOff]`, when it exists. -/
def headByte (s : State) : Option Byte :=
  match s.Q with
  | F :: _ => F[s.rdOff]?
  | [] => none

/-- `rdOff = |Q[0]| - 1` (R116). -/
def headLast (s : State) : Bool :=
  match s.Q with
  | F :: _ => decide (s.rdOff + 1 = F.length)
  | [] => false

/-- The word `OUT = {out_last, out_data}` offered while `out_valid = 1`; `none` when the head byte does not exist (R69, R116). -/
def outWord (s : State) : Option (BitVec 9) := (headByte s).map (outWordOf (headLast s))

/-- `out_data` (R116): 0 while nothing is offered. -/
def outData (s : State) : Option Byte := if outValid s then headByte s else some 0

/-- `out_last` (R116): 0 while nothing is offered. -/
def outLast (s : State) : Bool := outValid s && headLast s

/-- `err_valid` (R71). -/
def errValid (s : State) : Bool := s.errOut.isSome

/-- `err_code` (R71). -/
def errCode (s : State) : BitVec 3 :=
  match s.errOut with
  | some k => k.code
  | none => 0

/-- STATUS (R131). -/
def statusWord (s : State) : Word :=
  zext32 (BitVec.ofBool s.stkXport ++ BitVec.ofBool s.stkOvf ++ BitVec.ofBool s.stkCsum ++ BitVec.ofBool s.stkZlen
    ++ BitVec.ofBool (qFull s) ++ BitVec.ofBool (qEmpty s)
    ++ BitVec.ofBool s.ovf ++ BitVec.ofBool (complete s) ++ BitVec.ofBool (lenPresent s) ++ BitVec.ofBool (wEmpty s)
    ++ BitVec.ofBool s.evalPending ++ BitVec.ofBool s.scanning ++ BitVec.ofBool s.inRead ++ BitVec.ofBool s.stopReq
    ++ s.mode.bits)

/-- QCOUNT (R132). -/
def qcountWord (s : State) : Word := zext32 (u8 (pCount s))

/-- WPOS (R133). -/
def wposWord (s : State) : Word := BitVec.ofNat 32 s.W.length

/-- PARAMS (R138). -/
def paramsWord (b : Config.Build) : Word :=
  zext32 (BitVec.ofBool b.asyncFifo ++ u8 b.qFrames ++ BitVec.ofNat 16 b.bufBytes)

/-- ID (R139): "FSC1" in ASCII. -/
def idWord : Word := 0x46534331

end Sys2Proof.Machine
end

