-- ==== Sys2Proof/Machine/Ops.lean ====
section
/-! DEFINITION. The named operations every meaning is made of: appending an input byte, raising an error, committing a frame, closing a
cycle. -/

namespace Sys2Proof.Machine

open Sys2Proof

/-- One operation after another; a stop ends the sequence. -/
def andThen (r : Result) (f : State → Result) : Result :=
  match r with
  | .next s => f s
  | .fault e => .fault e
  | .refused e => .refused e

/-- The next state, when there is one. -/
def nextOf : Result → Option State
  | .next s => some s
  | .fault _ => none
  | .refused _ => none

/-- An operation with an enabling condition: where it does not hold the operation is not performed and nothing changes (R67, R74, R164;
notes/assumptions/6.md). -/
def gated (enabled : Bool) (op : State → Result) (s : State) : Result := if enabled then op s else .next s

/-- Whether a byte accepted now is looked at for the sentinel: decided at the read's first beat, and kept while scanning (R98). -/
def scans (s : State) : Bool := (!s.inRead && s.W.isEmpty) || (s.inRead && s.scanning)

/-- `absorb(d)` of 41_framing_engine: one byte into the working frame, or discarded (R98 to R100). -/
def absorb (d : Byte) (s : State) : State :=
  if scans s then
    if d = Config.sentinel then { s with scanning := false, W := [Config.sentinel] } else { s with scanning := true }
  else if s.ovf = true ∨ s.W.length = s.build.bufBytes then { s with scanning := false, ovf := true }
  else { s with scanning := false, W := s.W ++ [d] }

/-- `raise Err(c)` (R141), the block's one way to take an error: the sticky flag, the counter and the event register. -/
def raiseErr (c : ErrKind) (s : State) : State :=
  match c with
  | .zeroLength => { s with stkZlen := true, cntZlen := satInc s.cntZlen, errOut := some .zeroLength }
  | .checksum => { s with stkCsum := true, cntCsum := satInc s.cntCsum, errOut := some .checksum }
  | .bufOverflow => { s with stkOvf := true, cntOvf := satInc s.cntOvf, errOut := some .bufOverflow }
  | .transport => { s with stkXport := true, errOut := some .transport }

/-- `Enq(F)`, the commit (R114). -/
def enq (F : List Byte) (s : State) : State := { s with Q := s.Q ++ [F], wrCnt := s.wrCnt + 1 }

/-- `clear()` of the working frame (R90). -/
def clearW (s : State) : State := { s with W := [] }

/-- A register read drives its value on `reg_rdata` and does nothing else (R54, R127). -/
def readReg (v : Word) (s : State) : State := { s with regRdata := v }

/-- CTRL.CLEAR_LOG: the three error counters and the four sticky flags (R129). -/
def clearLog (s : State) : State :=
  { s with cntZlen := 0, cntCsum := 0, cntOvf := 0, stkZlen := false, stkCsum := false, stkOvf := false, stkXport := false }

/-- At the start of a producer cycle the last cycle's error event is over; an error raised in the cycle loads `errOut` again (R28, step 6
of R107). -/
def startCycle (s : State) : State := { s with errOut := none }

/-- The end of a cycle with one clock: each domain has seen the other's counts (R121). -/
def syncAll (s : State) : State := { s with wrSeenC := s.wrCnt, rdSeenP := s.rdCnt }

end Sys2Proof.Machine
end

