-- ==== Sys2Proof/Machine/Engine.lean ====
section
/-! DEFINITION. The engine's internal steps: EVAL (R102, R103), STOP_DONE (R106) and RESET (R160). -/

namespace Sys2Proof.Machine

open Sys2Proof

/-- What EVAL finds (R102), in the order it is tested. -/
inductive EvalOutcome where
  | ovf
  | nolen
  | zlen
  | wait
  | csum
  /-- The frame to commit and the leftover to keep. -/
  | emit (F rest : List Byte)
  /-- A frame function was used where it is undefined: never the case. -/
  | undefinedUse
  deriving DecidableEq, Repr

/-- The outcome of EVAL (R102): a function of `ovf` and the working frame. -/
def evalOutcome (s : State) : EvalOutcome :=
  if s.ovf then .ovf
  else if isLengthByteRead s.W = false then .nolen
  else if isZeroLength s.W then .zlen
  else if isCompletePacket s.W = false then .wait
  else
    match frameSum s.W, split s.W with
    | some sum, some (F, rest) => if sum = 0 then .emit F rest else .csum
    | _, _ => .undefinedUse

/-- EVAL's condition (R103): pending, and an EMIT needs room in the queue. -/
def evalEnabled (s : State) : Bool :=
  s.evalPending &&
    match evalOutcome s with
    | .emit _ _ => hasRoom s
    | .ovf => true
    | .nolen => true
    | .zlen => true
    | .wait => true
    | .csum => true
    | .undefinedUse => true

/-- The read is evaluated (R102). -/
def evalDone (s : State) : State := { s with evalPending := false }

/-- The effect of EVAL (R102). -/
def evalOp (s : State) : Result :=
  match evalOutcome s with
  | .ovf => .next (evalDone (raiseErr .bufOverflow { clearW s with ovf := false }))
  | .nolen => .next (evalDone s)
  | .zlen => .next (evalDone (raiseErr .zeroLength (clearW s)))
  | .wait => .next (evalDone s)
  | .csum => .next (evalDone (raiseErr .checksum (clearW s)))
  | .emit F rest => .next (evalDone { enq F s with W := rest, cntFrames := satInc s.cntFrames })
  | .undefinedUse => .fault .frameFunctionUndefined

/-- EVAL (R102), taken when enabled (R103). -/
def execEval (s : State) : Result := gated (evalEnabled s) evalOp s

/-- STOP_DONE's condition (R106). -/
def stopEnabled (s : State) : Bool := decide (s.mode = .run) && s.stopReq && !s.inRead && !s.evalPending

/-- The effect of STOP_DONE (R106). -/
def stopDoneOp (s : State) : State := { s with mode := .stopped, stopReq := false }

/-- STOP_DONE (R106). -/
def execStopDone (s : State) : Result := gated (stopEnabled s) (fun s => .next (stopDoneOp s)) s

/-- Every state element takes its reset value; the build is not reset (R44), and what the neighbours offer is not state (R15). -/
def resetOp (s : State) : State := { State.resetOf s.build with pending := s.pending, drawn := s.drawn }

/-- RESET (R160). -/
def execReset (s : State) : Result := .next (resetOp s)

end Sys2Proof.Machine
end

