-- ==== Sys2Proof/Machine/Input.lean ====
section
/-! DEFINITION. The input channel: IN_BYTE, IN_LAST, IN_ERR (R99, R100, R105), each accepted when `in_ready = 1` (R97). -/

namespace Sys2Proof.Machine

open Sys2Proof

/-- The effect of an accepted byte that is not the last of its read (R99). -/
def inByteOp (d : Byte) (s : State) : State := { absorb d s with inRead := true }

/-- The effect of an accepted byte that ends its read (R100). -/
def inLastOp (d : Byte) (s : State) : State := { absorb d s with inRead := false, scanning := false, evalPending := true }

/-- The effect of an accepted failed read (R105). -/
def inErrOp (s : State) : State := raiseErr .transport { s with mode := .fail }

/-- IN_BYTE (R99). -/
def execInByte (d : Byte) (s : State) : Result := gated (inReady s) (fun s => .next (inByteOp d s)) s

/-- IN_LAST (R100). -/
def execInLast (d : Byte) (s : State) : Result := gated (inReady s) (fun s => .next (inLastOp d s)) s

/-- IN_ERR (R105); the ignored bits have no effect (R75). -/
def execInErr (_ignored : BitVec 9) (s : State) : Result := gated (inReady s) (fun s => .next (inErrOp s)) s

end Sys2Proof.Machine
end

