-- ==== Sys2Proof/Machine/Output.lean ====
section
/-! DEFINITION. The output channel: OUT_BYTE and OUT_LAST (R117, R118), transferred when the block offers their word (R69, R116). -/

namespace Sys2Proof.Machine

open Sys2Proof

/-- The effect of taking a byte that is not the frame's last (R117). -/
def outByteOp (s : State) : State := { s with rdOff := s.rdOff + 1 }

/-- The effect of taking the frame's last byte: the frame leaves the queue (R118). -/
def outLastOp (s : State) : State := { s with Q := s.Q.tail, rdCnt := s.rdCnt + 1, rdOff := 0 }

/-- The beat `w` is transferred when it is the word the block offers; while nothing, or another word, is offered there is no such beat
and nothing changes (R69, R118; notes/assumptions/7.md). -/
def outBeat (w : BitVec 9) (op : State → State) (s : State) : Result :=
  if outValid s then
    match outWord s with
    | some offered => if offered = w then .next (op s) else .next s
    | none => .fault .headByteMissing
  else .next s

/-- OUT_BYTE (R117). -/
def execOutByte (d : Byte) (s : State) : Result := outBeat (outWordOf false d) outByteOp s

/-- OUT_LAST (R118). -/
def execOutLast (d : Byte) (s : State) : Result := outBeat (outWordOf true d) outLastOp s

end Sys2Proof.Machine
end

