-- ==== Sys2Proof/Machine/Registers.lean ====
section
/-! DEFINITION. The register operations (R127 to R140). The port is always ready, in every mode (R127). -/

namespace Sys2Proof.Machine

open Sys2Proof

/-- STOP and START of CTRL, STOP winning over START (R129). -/
def startStop (v : Word) (s : State) : State :=
  if v.getLsbD 1 then
    match s.mode with
    | .run => { s with stopReq := true }
    | .stopped => s
    | .fail => s
  else if v.getLsbD 0 then
    match s.mode with
    | .stopped => { s with mode := .run }
    | .run => { s with stopReq := false }
    | .fail => s
  else s

/-- WR_CTRL (R129): CLEAR_LOG, then STOP or START; bits 31:3 are ignored. -/
def wrCtrlOp (v : Word) (s : State) : State := startStop v (if v.getLsbD 2 then clearLog s else s)

/-- WR_CTRL (R129). -/
def execWrCtrl (v : Word) (s : State) : Result := .next (wrCtrlOp v s)

/-- WR_IGNORED (R128): no effect. -/
def execWrIgnored (_addr : Byte) (_v : Word) (s : State) : Result := .next s

/-- RD_CTRL (R130). -/
def execRdCtrl (s : State) : Result := .next (readReg 0 s)

/-- RD_STATUS (R131). -/
def execRdStatus (s : State) : Result := .next (readReg (statusWord s) s)

/-- RD_QCOUNT (R132). -/
def execRdQcount (s : State) : Result := .next (readReg (qcountWord s) s)

/-- RD_WPOS (R133). -/
def execRdWpos (s : State) : Result := .next (readReg (wposWord s) s)

/-- RD_CNT_FRAMES (R134). -/
def execRdCntFrames (s : State) : Result := .next (readReg (zext32 s.cntFrames) s)

/-- RD_CNT_ZLEN (R135). -/
def execRdCntZlen (s : State) : Result := .next (readReg (zext32 s.cntZlen) s)

/-- RD_CNT_CSUM (R136). -/
def execRdCntCsum (s : State) : Result := .next (readReg (zext32 s.cntCsum) s)

/-- RD_CNT_OVF (R137). -/
def execRdCntOvf (s : State) : Result := .next (readReg (zext32 s.cntOvf) s)

/-- RD_PARAMS (R138). -/
def execRdParams (s : State) : Result := .next (readReg (paramsWord s.build) s)

/-- RD_ID (R139). -/
def execRdId (s : State) : Result := .next (readReg idWord s)

/-- RD_RSVD (R140). -/
def execRdRsvd (_addr : Byte) (s : State) : Result := .next (readReg 0 s)

end Sys2Proof.Machine
end

