-- ==== Sys2Proof/Machine/Sync.lean ====
section
/-! DEFINITION. The clock-domain crossing of the queue: SYNC_P2C and SYNC_C2P (R119, R120). -/

namespace Sys2Proof.Machine

open Sys2Proof

/-- The counts SYNC_P2C may advance `wrSeenC` to (R119). -/
def p2cEnabled (v : Nat) (s : State) : Bool := decide (s.wrSeenC < v) && decide (v ≤ s.wrCnt)

/-- The counts SYNC_C2P may advance `rdSeenP` to (R120). -/
def c2pEnabled (v : Nat) (s : State) : Bool := decide (s.rdSeenP < v) && decide (v ≤ s.rdCnt)

/-- The consumer domain learns of commits (R119). -/
def syncP2cOp (v : Nat) (s : State) : State := { s with wrSeenC := v }

/-- The producer domain learns of pops (R120). -/
def syncC2pOp (v : Nat) (s : State) : State := { s with rdSeenP := v }

/-- SYNC_P2C (R119). -/
def execSyncP2c (v : Nat) (s : State) : Result := gated (p2cEnabled v s) (fun s => .next (syncP2cOp v s)) s

/-- SYNC_C2P (R120). -/
def execSyncC2p (v : Nat) (s : State) : Result := gated (c2pEnabled v s) (fun s => .next (syncC2pOp v s)) s

end Sys2Proof.Machine
end

