-- ==== Sys2Proof/Machine/Dispatch.lean ====
section
/-! DEFINITION. The one dispatcher: one direct call of a meaning per constructor. -/

namespace Sys2Proof.Machine

open Sys2Proof

def exec (i : Instr) (s : State) : Host.Outcome State Fault Refusal :=
  match i with
  | .inByte d => Sys2Proof.Machine.execInByte d s
  | .inLast d => Sys2Proof.Machine.execInLast d s
  | .inErr x => Sys2Proof.Machine.execInErr x s
  | .outByte d => Sys2Proof.Machine.execOutByte d s
  | .outLast d => Sys2Proof.Machine.execOutLast d s
  | .wrCtrl v => Sys2Proof.Machine.execWrCtrl v s
  | .wrIgnored a v => Sys2Proof.Machine.execWrIgnored a v s
  | .rdCtrl => Sys2Proof.Machine.execRdCtrl s
  | .rdStatus => Sys2Proof.Machine.execRdStatus s
  | .rdQcount => Sys2Proof.Machine.execRdQcount s
  | .rdWpos => Sys2Proof.Machine.execRdWpos s
  | .rdCntFrames => Sys2Proof.Machine.execRdCntFrames s
  | .rdCntZlen => Sys2Proof.Machine.execRdCntZlen s
  | .rdCntCsum => Sys2Proof.Machine.execRdCntCsum s
  | .rdCntOvf => Sys2Proof.Machine.execRdCntOvf s
  | .rdParams => Sys2Proof.Machine.execRdParams s
  | .rdId => Sys2Proof.Machine.execRdId s
  | .rdRsvd a => Sys2Proof.Machine.execRdRsvd a s
  | .eval => Sys2Proof.Machine.execEval s
  | .stopDone => Sys2Proof.Machine.execStopDone s
  | .syncP2c v => Sys2Proof.Machine.execSyncP2c v s
  | .syncC2p v => Sys2Proof.Machine.execSyncC2p v s
  | .reset => Sys2Proof.Machine.execReset s

end Sys2Proof.Machine
end

