-- ==== Sys2Proof/Machine/Cycle.lean ====
section
/-! DEFINITION. One cycle (R107, R121, R122): which operations it takes, from the signals of the state at its start, and in which order
they are applied; where the cycle's offers come from; and placing one. -/

namespace Sys2Proof.Machine

open Sys2Proof

/-- Whether `i` is taken when it is offered (or, for an internal step, chosen) in a cycle that starts in `s`. -/
def ready (i : Instr) (s : State) : Bool :=
  match i with
  | .inByte _ => inReady s
  | .inLast _ => inReady s
  | .inErr _ => inReady s
  | .outByte d => outValid s && decide (outWord s = some (outWordOf false d))
  | .outLast d => outValid s && decide (outWord s = some (outWordOf true d))
  | .wrCtrl _ => true
  | .wrIgnored _ _ => true
  | .rdCtrl => true
  | .rdStatus => true
  | .rdQcount => true
  | .rdWpos => true
  | .rdCntFrames => true
  | .rdCntZlen => true
  | .rdCntCsum => true
  | .rdCntOvf => true
  | .rdParams => true
  | .rdId => true
  | .rdRsvd _ => true
  | .eval => evalEnabled s
  | .stopDone => stopEnabled s
  | .syncP2c v => p2cEnabled v s
  | .syncC2p v => c2pEnabled v s
  | .reset => true

/-- The effect of `i` once it is taken. -/
def perform (i : Instr) (s : State) : Result :=
  match i with
  | .inByte d => .next (inByteOp d s)
  | .inLast d => .next (inLastOp d s)
  | .inErr _ => .next (inErrOp s)
  | .outByte _ => .next (outByteOp s)
  | .outLast _ => .next (outLastOp s)
  | .wrCtrl v => execWrCtrl v s
  | .wrIgnored a v => execWrIgnored a v s
  | .rdCtrl => execRdCtrl s
  | .rdStatus => execRdStatus s
  | .rdQcount => execRdQcount s
  | .rdWpos => execRdWpos s
  | .rdCntFrames => execRdCntFrames s
  | .rdCntZlen => execRdCntZlen s
  | .rdCntCsum => execRdCntCsum s
  | .rdCntOvf => execRdCntOvf s
  | .rdParams => execRdParams s
  | .rdId => execRdId s
  | .rdRsvd a => execRdRsvd a s
  | .eval => evalOp s
  | .stopDone => .next (stopDoneOp s)
  | .syncP2c v => .next (syncP2cOp v s)
  | .syncC2p v => .next (syncC2pOp v s)
  | .reset => execReset s

/-- The operation of one place in the cycle, if any. -/
def performAll (o : Option Instr) (s : State) : Result :=
  match o with
  | some i => perform i s
  | none => .next s

/-- The register operation requested in the cycle (R72). -/
def regInstr (t : Tick) : Option Instr := t.reg.map fun r => decodeReg (regHeader r.we r.addr) r.wdata

/-- The engine operation of the cycle (step 4 of R107): the offered beat if `in_ready` holds at the start `s0` of the cycle, else EVAL if it
is enabled in `s0` and chosen. Both cannot occur, since `in_ready` excludes `evalPending`. -/
def engineInstr (t : Tick) (s0 : State) : Option Instr :=
  match t.beat.map decodeIn with
  | some i =>
    if ready i s0 then some i
    else if t.evalNow && evalEnabled s0 then some .eval else none
  | none => if t.evalNow && evalEnabled s0 then some .eval else none

/-- The producer's part of a cycle that starts in `s` (steps 2 to 6 of R107). -/
def producerCycle (t : Tick) (s : State) : Result :=
  andThen (performAll (regInstr t) (startCycle s)) fun s3 =>
  andThen (performAll (engineInstr t s) s3) fun s4 =>
  execStopDone s4

/-- The consumer's part of a cycle that starts in `s0`, applied to `s`: the word offered in `s0`, if the consumer accepts it (R69, R116,
R121). -/
def consumerCycle (t : Tick) (s0 s : State) : Result :=
  if t.outReady && outValid s0 then
    match outWord s0 with
    | some w => perform (decodeOut w) s
    | none => .fault .headByteMissing
  else .next s

/-- A cycle of the one clock (`ASYNC_FIFO = 0`): R107 with step 7. -/
def oneClockCycle (t : Tick) (s : State) : Result :=
  andThen (producerCycle t s) fun s5 =>
  andThen (consumerCycle t s s5) fun s6 =>
  .next (syncAll s6)

/-- An edge of `clk_p` (`ASYNC_FIFO = 1`, R122), with SYNC_C2P if it is chosen and enabled. -/
def producerEdge (t : Tick) (s : State) : Result :=
  andThen (producerCycle t s) fun s5 =>
  match t.syncC2p with
  | some v => if ready (.syncC2p v) s then perform (.syncC2p v) s5 else .next s5
  | none => .next s5

/-- An edge of `clk_c` (`ASYNC_FIFO = 1`, R122), with SYNC_P2C if it is chosen and enabled. -/
def consumerEdge (t : Tick) (s : State) : Result :=
  andThen (consumerCycle t s s) fun s5 =>
  match t.syncP2c with
  | some v => if ready (.syncP2c v) s then perform (.syncP2c v) s5 else .next s5
  | none => .next s5

/-- One cycle, or one assertion of reset, which wins over everything (R107 step 1, R149, R159). -/
def runTick (t : Tick) (s : State) : Result :=
  if t.rst then execReset s
  else if s.build.asyncFifo then
    match t.edge with
    | .clkP => producerEdge t s
    | .clkC => consumerEdge t s
  else oneClockCycle t s

/-- What the next cycle offers: the oldest placed tick, or a free one (notes/assumptions/2.md). -/
def nextTick (s : State) : Tick :=
  match s.pending with
  | t :: _ => t
  | [] => Config.freeTick s.drawn

/-- The tick is used up. -/
def advance (s : State) : State :=
  match s.pending with
  | _ :: ts => { s with pending := ts }
  | [] => { s with drawn := s.drawn + 1 }

/-- One step of the machine; a build outside R7 is refused (D17). -/
def stepBlock (s : State) : Result :=
  if s.build.legal then runTick (nextTick s) (advance s) else .refused .illegalBuild

/-- A cycle in which one neighbour drives one port and nobody else does anything: an input beat of this word, a register access of this
header and write data, or a consumer that accepts whatever byte is offered. -/
def tickOf (p : PortWord) : Tick :=
  match p with
  | .input w => { Tick.idle with edge := .clkP, beat := some w }
  | .output _ => { Tick.idle with edge := .clkC, outReady := true }
  | .register h wdata => { Tick.idle with edge := .clkP, reg := some ⟨h.getLsbD 8, h.extractLsb' 0 8, wdata⟩ }

/-- A tick placed in front of all others: it is the next step's. -/
def placeTick (t : Tick) (s : State) : State := { s with pending := t :: s.pending }

/-- The cycle that offers the operation of a bare table number is placed next (notes/assumptions/3.md, 4.md); a number that stands for no
operation places nothing. -/
def placeTableWord (s : State) (nbits w : Nat) : State :=
  match tablePortWord nbits w with
  | some p => placeTick (tickOf p) s
  | none => s

end Sys2Proof.Machine
end

