-- ==== Sys2Proof/Machine/Step.lean ====
section
/-! DEFINITION. The step of the machine and the placing of an instruction for it. -/

namespace Sys2Proof.Machine

open Sys2Proof

/-- One step: one cycle of the block (R107, R122), or one assertion of reset (R159). -/
def step (s : State) : Host.Outcome State Fault Refusal := stepBlock s

/-- `s` with the operation of the bare table number `w` offered in the next cycle (notes/assumptions/3.md, 4.md). -/
def State.withFetchWord (s : State) (nbits w : Nat) : State := placeTableWord s nbits w

end Sys2Proof.Machine
end

