-- ==== Sys2Proof/Machine/Fair.lean ====
section
/-! DEFINITION. Weak fairness (R8, R104, R122, R176): the runs in which no internal step that stays enabled is put off for ever. A single step
leaves every scheduling choice free; these are properties of whole runs. -/

namespace Sys2Proof.Machine

open Sys2Proof

/-- The internal steps that R176 (a) names. -/
inductive InternalStep where
  | eval
  | stopDone
  | syncC2p
  | syncP2c
  deriving DecidableEq, Repr

/-- The clock of an internal step (R122). -/
def internalEdge (p : InternalStep) : Edge :=
  match p with
  | .eval => .clkP
  | .stopDone => .clkP
  | .syncC2p => .clkP
  | .syncP2c => .clkC

/-- The condition of an internal step (R103, R106, R119, R120). -/
def internalEnabled (p : InternalStep) (s : State) : Bool :=
  match p with
  | .eval => evalEnabled s
  | .stopDone => stopEnabled s
  | .syncC2p => decide (s.rdSeenP < s.rdCnt)
  | .syncP2c => decide (s.wrSeenC < s.wrCnt)

/-- The step from `s` is a cycle of the internal step's clock: no reset, and with two clocks an edge of that clock (R121, R122). -/
def ownCycle (p : InternalStep) (s : State) : Bool :=
  !(nextTick s).rst && (!s.build.asyncFifo || decide ((nextTick s).edge = internalEdge p))

/-- STOP_DONE's condition holds after step 4 of R107, where the cycle tests it. -/
def stopTested (t : Tick) (s : State) : Bool :=
  match andThen (performAll (regInstr t) (startCycle s)) (performAll (engineInstr t s)) with
  | .next u => stopEnabled u
  | .fault _ => false
  | .refused _ => false

/-- A synchronization step to the count `v` that the tick chooses; with one clock it is part of every cycle (R121). -/
def syncTaken (s : State) (choice : Option Nat) (admitted : Nat → State → Bool) : Bool :=
  !s.build.asyncFifo ||
    match choice with
    | some v => admitted v s
    | none => false

/-- The step from `s` takes the internal step. -/
def internalTaken (p : InternalStep) (s : State) : Bool :=
  ownCycle p s &&
    match p with
    | .eval => (nextTick s).evalNow && evalEnabled s
    | .stopDone => stopTested (nextTick s) s
    | .syncC2p => syncTaken s (nextTick s).syncC2p c2pEnabled
    | .syncP2c => syncTaken s (nextTick s).syncP2c p2cEnabled

/-- An unending run: each state is the next of the one before, and between two steps the neighbours may place any offers (R12), which are no
state of the block (R15). -/
def IsRun (run : Nat → State) : Prop :=
  ∀ n, ∃ (t : State) (offers : List Tick), step (run n) = .next t ∧ run (n + 1) = { t with pending := offers }

/-- The cycles of the internal step's clock do not end. -/
def ClockRuns (p : InternalStep) (run : Nat → State) : Prop := ∀ m, ∃ k, m ≤ k ∧ ownCycle p (run k) = true

/-- Weak fairness (R8, R104, R122, R176 (a)): an internal step that is enabled from some step on, while its clock runs, is taken after
finitely many steps; how many is not said. -/
def WeaklyFair (run : Nat → State) : Prop :=
  ∀ (p : InternalStep) (n : Nat), (∀ k, n ≤ k → internalEnabled p (run k) = true) → ClockRuns p run →
    ∃ k, n ≤ k ∧ internalTaken p (run k) = true

/-- The runs the spec admits (R8): every delay of the internal steps, if it is finite. -/
def FairRun (run : Nat → State) : Prop := IsRun run ∧ WeaklyFair run

end Sys2Proof.Machine
end

