-- ==== Sys2Proof/Safety.lean ====
section
/-! DEFINITION. What counts as a safe state and run: the invariant of R31, the synchronized counts of R121, and the reads of which R110 to
R112 speak. -/

namespace Sys2Proof.Machine

open Sys2Proof

/-- A frame the engine accepts (R31 (g), R63, R65): sentinel first, at least one payload byte, exactly `F[1] + 3` bytes, sum zero. -/
def validFrame (F : List Byte) : Bool :=
  match F with
  | a :: len :: _ => decide (a = 0x13) && decide (len ≠ 0) && decide (F.length = len.toNat + 3) && decide (sum8 F = 0)
  | _ => false

/-- A frame with a correct length byte whose sum is not zero (R111). -/
def corruptFrame (F : List Byte) : Bool :=
  match F with
  | a :: len :: _ => decide (a = 0x13) && decide (len ≠ 0) && decide (F.length = len.toNat + 3) && decide (sum8 F ≠ 0)
  | _ => false

/-- R31 (h): the offset lies in the head frame, and is 0 when there is none. -/
def offsetInHead (s : State) : Bool :=
  match s.Q with
  | F :: _ => decide (s.rdOff < F.length)
  | [] => decide (s.rdOff = 0)

/-- R31 (a) to (e) on the engine, with the two facts R31 leaves to its cross-references: a read that has found its sentinel has bytes in `W`,
and nothing is pending in FAIL. -/
abbrev State.EngineInv (s : State) : Prop :=
  s.W.length ≤ s.build.bufBytes ∧
  (s.W = [] ∨ s.W.head? = some 0x13) ∧
  (s.scanning = true → s.W = [] ∧ s.inRead = true) ∧
  (s.evalPending = true → s.inRead = false) ∧
  (s.mode = .stopped → s.inRead = false ∧ s.evalPending = false ∧ s.stopReq = false) ∧
  (s.inRead = true → s.scanning = false → s.W ≠ []) ∧
  (s.mode = .fail → s.evalPending = false)

/-- R31 (f) to (h) on the queue, and `|Q| = wrCnt - rdCnt` (R25). -/
abbrev State.QueueInv (s : State) : Prop :=
  s.rdSeenP ≤ s.rdCnt ∧ s.rdCnt ≤ s.wrSeenC ∧ s.wrSeenC ≤ s.wrCnt ∧
  s.wrCnt ≤ s.rdSeenP + s.build.qFrames ∧
  s.Q.length + s.rdCnt = s.wrCnt ∧
  (∀ F ∈ s.Q, validFrame F = true) ∧
  offsetInHead s = true

/-- The invariant of the block (R31) for a legal build (R7). -/
abbrev State.Inv (s : State) : Prop := s.build.legal = true ∧ s.EngineInv ∧ s.QueueInv

/-- With one clock each domain has seen the other's counts at the start of every cycle (R25, R121). -/
abbrev State.Synced (s : State) : Prop := s.build.asyncFifo = false → s.rdSeenP = s.rdCnt ∧ s.wrSeenC = s.wrCnt

/-- No read in progress, none waiting for EVAL, nothing accumulated, and the engine running: a read may start and is scanned. -/
abbrev State.IdleRun (s : State) : Prop :=
  s.mode = .run ∧ s.W = [] ∧ s.inRead = false ∧ s.scanning = false ∧ s.ovf = false ∧ s.evalPending = false ∧ s.stopReq = false

/-- The beats of one read, in order (R67, R79 (a)). -/
def deliverRead : List Byte → State → Result
  | [], s => .next s
  | [d], s => exec (.inLast d) s
  | d :: e :: ds, s => andThen (exec (.inByte d) s) (deliverRead (e :: ds))

/-- Reads, each followed by its EVAL (41_framing_engine introduction). -/
def deliverReads : List (List Byte) → State → Result
  | [], s => .next s
  | r :: rs, s => andThen (andThen (deliverRead r s) (exec .eval)) (deliverReads rs)

end Sys2Proof.Machine
end

