-- ==== Sys2Proof/Certificates/Slice0/Obligations.lean ====
section
/-! DEFINITION. The statements about the model, each from the rules of spec/ its docstring names. -/

open Sys2Proof Sys2Proof.Machine

/-- R43: after reset every element has the value of R43's table, for every build, which reset leaves alone (R44); `reg_rdata` is R160's. -/
def Obligations.ResetValues : Prop :=
  ∀ b : Config.Build,
    (State.resetOf b).build = b ∧ (State.resetOf b).mode = .stopped ∧ (State.resetOf b).W = [] ∧
    (State.resetOf b).inRead = false ∧ (State.resetOf b).scanning = false ∧ (State.resetOf b).ovf = false ∧
    (State.resetOf b).evalPending = false ∧ (State.resetOf b).stopReq = false ∧
    (State.resetOf b).Q = [] ∧ (State.resetOf b).wrCnt = 0 ∧ (State.resetOf b).rdSeenP = 0 ∧
    (State.resetOf b).rdCnt = 0 ∧ (State.resetOf b).wrSeenC = 0 ∧ (State.resetOf b).rdOff = 0 ∧
    (State.resetOf b).cntFrames = 0 ∧ (State.resetOf b).cntZlen = 0 ∧ (State.resetOf b).cntCsum = 0 ∧
    (State.resetOf b).cntOvf = 0 ∧ (State.resetOf b).stkZlen = false ∧ (State.resetOf b).stkCsum = false ∧
    (State.resetOf b).stkOvf = false ∧ (State.resetOf b).stkXport = false ∧
    errValid (State.resetOf b) = false ∧ errCode (State.resetOf b) = 0 ∧ (State.resetOf b).regRdata = 0

/-- R160: RESET completes in every state; every element takes its reset value, the parameters and the neighbours' offers stay. -/
def Obligations.ResetOperation : Prop :=
  ∀ s : State, exec .reset s = .next
    { build := s.build, mode := .stopped, W := [], inRead := false, scanning := false, ovf := false,
      evalPending := false, stopReq := false, Q := [], wrCnt := 0, rdSeenP := 0, rdCnt := 0, wrSeenC := 0, rdOff := 0,
      cntFrames := 0, cntZlen := 0, cntCsum := 0, cntOvf := 0, stkZlen := false, stkCsum := false, stkOvf := false,
      stkXport := false, errOut := none, regRdata := 0, pending := s.pending, drawn := s.drawn }

/-- R107 step 1, R149 (e), R159: a cycle with reset asserted is RESET and nothing else, whatever is offered in it. -/
def Obligations.ResetWinsOverTheCycle : Prop :=
  ∀ (s : State) (t : Tick) (ts : List Tick), s.build.legal = true → s.pending = t :: ts → t.rst = true →
    step s = exec .reset { s with pending := ts }

/-- R161: after reset of a legal build nothing is accepted or offered, and STATUS, PARAMS and ID read as the rule
says; a beat that is not accepted changes nothing (notes/assumptions/6.md). -/
def Obligations.AfterReset : Prop :=
  ∀ b : Config.Build, b.legal = true →
    (State.resetOf b).mode = .stopped ∧
    (∀ (d : Byte) (x : BitVec 9),
      exec (.inByte d) (State.resetOf b) = .next (State.resetOf b) ∧
      exec (.inLast d) (State.resetOf b) = .next (State.resetOf b) ∧
      exec (.inErr x) (State.resetOf b) = .next (State.resetOf b)) ∧
    outValid (State.resetOf b) = false ∧
    exec .rdStatus (State.resetOf b) = .next { State.resetOf b with regRdata := 0x00000440 } ∧
    exec .rdParams (State.resetOf b) = .next { State.resetOf b with
      regRdata := BitVec.ofNat 32 (b.bufBytes + 65536 * b.qFrames + 16777216 * b.asyncFifo.toNat) } ∧
    exec .rdId (State.resetOf b) = .next { State.resetOf b with regRdata := 0x46534331 }

/-- R7, D17: a build outside the ranges is refused; no cycle of it exists (notes/assumptions/11.md). -/
def Obligations.IllegalBuildIsRefused : Prop :=
  ∀ s : State,
    (s.build.bufBytes < 258 ∨ 65535 < s.build.bufBytes ∨ s.build.qFrames = 0 ∨ 255 < s.build.qFrames) →
    step s = .refused .illegalBuild

/-- R97: `in_ready`. -/
def Obligations.InReadyRule : Prop :=
  ∀ s : State, inReady s = true ↔
    s.mode = .run ∧ s.evalPending = false ∧ ¬(s.stopReq = true ∧ s.inRead = false)

/-- R67, R97, R164: a beat offered while `in_ready = 0` changes nothing (the model's reading of a beat that is not transferred:
notes/assumptions/6.md). -/
def Obligations.BeatNotAccepted : Prop :=
  ∀ (s : State) (d : Byte) (x : BitVec 9),
    (s.mode ≠ .run ∨ s.evalPending = true ∨ (s.stopReq = true ∧ s.inRead = false)) →
    exec (.inByte d) s = .next s ∧ exec (.inLast d) s = .next s ∧ exec (.inErr x) s = .next s

/-- R98, R99: IN_BYTE, accepted, for every byte and every state: scanned and dropped, sentinel found, no room, or appended; nothing else
changes. -/
def Obligations.InByteRule : Prop :=
  ∀ (s : State) (d : Byte), s.mode = .run → s.evalPending = false → (s.stopReq = false ∨ s.inRead = true) →
    exec (.inByte d) s = .next
      (if (s.inRead = false ∧ s.W = []) ∨ (s.inRead = true ∧ s.scanning = true) then
        if d = 0x13 then { s with scanning := false, W := [0x13], inRead := true }
        else { s with scanning := true, inRead := true }
      else if s.ovf = true ∨ s.W.length = s.build.bufBytes then
        { s with scanning := false, ovf := true, inRead := true }
      else { s with scanning := false, W := s.W ++ [d], inRead := true })

/-- R98, R100: IN_LAST, accepted: the byte is absorbed as by IN_BYTE, the read is closed and its EVAL is pending; nothing else changes. -/
def Obligations.InLastRule : Prop :=
  ∀ (s : State) (d : Byte), s.mode = .run → s.evalPending = false → (s.stopReq = false ∨ s.inRead = true) →
    exec (.inLast d) s = .next
      (if (s.inRead = false ∧ s.W = []) ∨ (s.inRead = true ∧ s.scanning = true) then
        if d = 0x13 then { s with W := [0x13], inRead := false, scanning := false, evalPending := true }
        else { s with inRead := false, scanning := false, evalPending := true }
      else if s.ovf = true ∨ s.W.length = s.build.bufBytes then
        { s with ovf := true, inRead := false, scanning := false, evalPending := true }
      else { s with W := s.W ++ [d], inRead := false, scanning := false, evalPending := true })

/-- R105, R145: IN_ERR, accepted: FAIL, the sticky flag and the error event; the same for every value of the ignored bits; everything else,
`W` and the queue among it, is kept. -/
def Obligations.InErrRule : Prop :=
  ∀ (s : State) (x : BitVec 9), s.mode = .run → s.evalPending = false → (s.stopReq = false ∨ s.inRead = true) →
    exec (.inErr x) s = .next { s with mode := .fail, stkXport := true, errOut := some .transport }

/-- R102 and R103, with R141 for what an error records: EVAL's outcomes in their order, for every pending read; an EMIT commits while the
queue has room; without room EVAL is not enabled, and `exec` of it answers the state itself (the model's reading,
notes/assumptions/6.md); nothing else changes. -/
def Obligations.EvalRule : Prop :=
  ∀ s : State, s.evalPending = true →
    exec .eval s = .next
      (if s.ovf = true then
        { s with W := [], ovf := false, evalPending := false, stkOvf := true,
                 cntOvf := BitVec.ofNat 16 (min (s.cntOvf.toNat + 1) 65535), errOut := some .bufOverflow }
      else if s.W.length < 2 then { s with evalPending := false }
      else if s.W.getD 1 0 = 0 then
        { s with W := [], evalPending := false, stkZlen := true,
                 cntZlen := BitVec.ofNat 16 (min (s.cntZlen.toNat + 1) 65535), errOut := some .zeroLength }
      else if s.W.length < (s.W.getD 1 0).toNat + 3 then { s with evalPending := false }
      else if ((s.W.take ((s.W.getD 1 0).toNat + 3)).map BitVec.toNat).sum % 256 ≠ 0 then
        { s with W := [], evalPending := false, stkCsum := true,
                 cntCsum := BitVec.ofNat 16 (min (s.cntCsum.toNat + 1) 65535), errOut := some .checksum }
      else if (s.wrCnt : Int) - s.rdSeenP < s.build.qFrames then
        { s with Q := s.Q ++ [s.W.take ((s.W.getD 1 0).toNat + 3)], wrCnt := s.wrCnt + 1,
                 W := if (s.W.drop ((s.W.getD 1 0).toNat + 3)).head? = some 0x13
                      then s.W.drop ((s.W.getD 1 0).toNat + 3) else [],
                 cntFrames := BitVec.ofNat 16 (min (s.cntFrames.toNat + 1) 65535), evalPending := false }
      else s)

/-- R103: EVAL is enabled when pending and, for an EMIT, the queue has room; otherwise it is not taken and nothing changes
(notes/assumptions/6.md). -/
def Obligations.EvalEnabledRule : Prop :=
  ∀ s : State,
    (s.evalPending = false → exec .eval s = .next s) ∧
    (s.evalPending = true →
      if s.ovf = false ∧ 2 ≤ s.W.length ∧ s.W.getD 1 0 ≠ 0 ∧ (s.W.getD 1 0).toNat + 3 ≤ s.W.length ∧
          ((s.W.take ((s.W.getD 1 0).toNat + 3)).map BitVec.toNat).sum % 256 = 0 ∧
          ¬ (s.wrCnt : Int) - s.rdSeenP < s.build.qFrames
      then exec .eval s = .next s
      else ∃ t, exec .eval s = .next t ∧ t.evalPending = false)

/-- R106: STOP_DONE, when its condition holds and when it does not (then nothing changes, notes/assumptions/6.md). -/
def Obligations.StopDoneRule : Prop :=
  ∀ s : State, exec .stopDone s = .next
    (if s.mode = .run ∧ s.stopReq = true ∧ s.inRead = false ∧ s.evalPending = false
     then { s with mode := .stopped, stopReq := false } else s)

/-- R116: the output signals, while a frame is visible and while none is. -/
def Obligations.OutputSignals : Prop :=
  ∀ s : State,
    (s.wrSeenC ≤ s.rdCnt → outValid s = false ∧ outData s = some 0 ∧ outLast s = false) ∧
    (∀ (F : List Byte) (rest : List (List Byte)) (d : Byte), s.rdCnt < s.wrSeenC → s.Q = F :: rest → F[s.rdOff]? = some d →
      outValid s = true ∧ outData s = some d ∧ (outLast s = true ↔ s.rdOff = F.length - 1))

/-- R117: OUT_BYTE takes the offered byte when it is not the frame's last; only `rdOff` changes. -/
def Obligations.OutByteRule : Prop :=
  ∀ (s : State) (F : List Byte) (rest : List (List Byte)) (d : Byte),
    s.rdCnt < s.wrSeenC → s.Q = F :: rest → F[s.rdOff]? = some d → s.rdOff ≠ F.length - 1 →
    exec (.outByte d) s = .next { s with rdOff := s.rdOff + 1 }

/-- R118: OUT_LAST takes the frame's last byte and removes the frame; only `Q`, `rdCnt` and `rdOff` change. -/
def Obligations.OutLastRule : Prop :=
  ∀ (s : State) (F : List Byte) (rest : List (List Byte)) (d : Byte),
    s.rdCnt < s.wrSeenC → s.Q = F :: rest → F[s.rdOff]? = some d → s.rdOff = F.length - 1 →
    exec (.outLast d) s = .next { s with Q := rest, rdCnt := s.rdCnt + 1, rdOff := 0 }

/-- R69, R118 (a): while no frame is visible there is no output beat and nothing changes, and neither does anything for a word other than
the offered one (the model's reading, notes/assumptions/7.md). -/
def Obligations.NoOtherOutputBeat : Prop :=
  ∀ (s : State) (d : Byte),
    (s.wrSeenC ≤ s.rdCnt → exec (.outByte d) s = .next s ∧ exec (.outLast d) s = .next s) ∧
    (∀ (F : List Byte) (rest : List (List Byte)) (e : Byte), s.Q = F :: rest → F[s.rdOff]? = some e →
      ((d ≠ e ∨ s.rdOff = F.length - 1) → exec (.outByte d) s = .next s) ∧
      ((d ≠ e ∨ s.rdOff ≠ F.length - 1) → exec (.outLast d) s = .next s))

/-- R119, R120: SYNC_P2C may advance `wrSeenC` to every count up to the commits, SYNC_C2P `rdSeenP` to every count up to the pops, and neither
to any other (notes/assumptions/6.md). -/
def Obligations.SyncRules : Prop :=
  ∀ (s : State) (v : Nat),
    exec (.syncP2c v) s = .next (if s.wrSeenC < v ∧ v ≤ s.wrCnt then { s with wrSeenC := v } else s) ∧
    exec (.syncC2p v) s = .next (if s.rdSeenP < v ∧ v ≤ s.rdCnt then { s with rdSeenP := v } else s)

/-- R129: WR_CTRL in every mode, for every operand: CLEAR_LOG, STOP winning over START, bits 31:3 ignored; nothing else changes. -/
def Obligations.WrCtrlRule : Prop :=
  ∀ (s : State) (v : Word), exec (.wrCtrl v) s = .next
    { s with
      cntZlen := if v.getLsbD 2 then 0 else s.cntZlen
      cntCsum := if v.getLsbD 2 then 0 else s.cntCsum
      cntOvf := if v.getLsbD 2 then 0 else s.cntOvf
      stkZlen := !v.getLsbD 2 && s.stkZlen
      stkCsum := !v.getLsbD 2 && s.stkCsum
      stkOvf := !v.getLsbD 2 && s.stkOvf
      stkXport := !v.getLsbD 2 && s.stkXport
      mode := if v.getLsbD 1 = false ∧ v.getLsbD 0 = true ∧ s.mode = .stopped then .run else s.mode
      stopReq := if s.mode = .run then (v.getLsbD 1 || (!v.getLsbD 0 && s.stopReq)) else s.stopReq }

/-- R128: a write to any address but 0x00 changes nothing, whatever is written. -/
def Obligations.WrIgnoredRule : Prop :=
  ∀ (s : State) (addr : Byte) (v : Word),
    exec (.wrIgnored addr v) s = .next s ∧
    (addr ≠ 0 → exec (decode (.register (1#1 ++ addr) v)) s = .next s)

/-- R130, R140: CTRL reads 0, and so does every address that names no register, those with bits 1:0 not 00 among them. -/
def Obligations.ZeroReads : Prop :=
  ∀ (s : State) (addr : Byte) (v : Word),
    exec .rdCtrl s = .next { s with regRdata := 0 } ∧
    exec (.rdRsvd addr) s = .next { s with regRdata := 0 } ∧
    ((addr.toNat % 4 ≠ 0 ∨ 0x24 < addr.toNat) → exec (decode (.register (0#1 ++ addr) v)) s = .next { s with regRdata := 0 })

/-- R34, R131: every field of STATUS. -/
def Obligations.StatusRule : Prop :=
  ∀ s : State, ∃ v : Word, exec .rdStatus s = .next { s with regRdata := v } ∧
    v.extractLsb' 0 2 = (match s.mode with | .stopped => 0 | .run => 1 | .fail => 2) ∧
    v.getLsbD 2 = s.stopReq ∧ v.getLsbD 3 = s.inRead ∧ v.getLsbD 4 = s.scanning ∧ v.getLsbD 5 = s.evalPending ∧
    v.getLsbD 6 = decide (s.W.length = 0) ∧ v.getLsbD 7 = decide (2 ≤ s.W.length) ∧
    v.getLsbD 8 = decide (2 ≤ s.W.length ∧ (s.W.getD 1 0).toNat + 3 ≤ s.W.length) ∧
    v.getLsbD 9 = s.ovf ∧
    v.getLsbD 10 = decide ((s.wrCnt : Int) - s.rdSeenP = 0) ∧
    v.getLsbD 11 = decide ((s.wrCnt : Int) - s.rdSeenP = s.build.qFrames) ∧
    v.getLsbD 12 = s.stkZlen ∧ v.getLsbD 13 = s.stkCsum ∧ v.getLsbD 14 = s.stkOvf ∧ v.getLsbD 15 = s.stkXport ∧
    v.extractLsb' 16 16 = 0

/-- R132, R133: QCOUNT is the producer's count, which a state that meets the invariant (notes/assumptions/19.md) holds
in 8 bits; WPOS is `|W|`. -/
def Obligations.QcountAndWposRule : Prop :=
  ∀ s : State,
    (∃ v : Word, exec .rdQcount s = .next { s with regRdata := v } ∧
      (v.toNat : Int) = ((s.wrCnt : Int) - s.rdSeenP) % 256 ∧
      (s.Inv → v.toNat = s.wrCnt - s.rdSeenP ∧ v.toNat ≤ s.build.qFrames)) ∧
    (∃ v : Word, exec .rdWpos s = .next { s with regRdata := v } ∧
      v.toNat = s.W.length % 4294967296 ∧ (s.Inv → v.toNat = s.W.length))

/-- R37, R134 to R137: each counter is read into bits 15:0, bits 31:16 zero. -/
def Obligations.CounterReads : Prop :=
  ∀ s : State, ∃ f z c o : Word,
    exec .rdCntFrames s = .next { s with regRdata := f } ∧ f.toNat = s.cntFrames.toNat ∧
    exec .rdCntZlen s = .next { s with regRdata := z } ∧ z.toNat = s.cntZlen.toNat ∧
    exec .rdCntCsum s = .next { s with regRdata := c } ∧ c.toNat = s.cntCsum.toNat ∧
    exec .rdCntOvf s = .next { s with regRdata := o } ∧ o.toNat = s.cntOvf.toNat

/-- R38, R138: the fields of PARAMS for every legal build. -/
def Obligations.ParamsRule : Prop :=
  ∀ s : State, s.build.legal = true → ∃ v : Word, exec .rdParams s = .next { s with regRdata := v } ∧
    (v.extractLsb' 0 16).toNat = s.build.bufBytes ∧ (v.extractLsb' 16 8).toNat = s.build.qFrames ∧
    v.getLsbD 24 = s.build.asyncFifo ∧ v.extractLsb' 25 7 = 0

/-- R39, R139: ID reads the constant in every mode. -/
def Obligations.IdRule : Prop :=
  ∀ s : State, exec .rdId s = .next { s with regRdata := 0x46534331 }

/-- R54: whatever header with `reg_we = 0` the host drives, the read completes and writes `reg_rdata` only. -/
def Obligations.ReadsHaveNoSideEffect : Prop :=
  ∀ (s : State) (addr : Byte) (v : Word), ∃ r : Word,
    exec (decode (.register (0#1 ++ addr) v)) s = .next { s with regRdata := r }

/-- R52, R53, R113, R123: the queue is written only by EVAL, which appends one frame, by OUT_LAST, which removes the head, and by RESET. -/
def Obligations.QueueWrittenOnlyByCommitPopReset : Prop :=
  ∀ (i : Instr) (s t : State), exec i s = .next t →
    t.Q = s.Q ∨
    (i = .eval ∧ t.Q = s.Q ++ [s.W.take ((s.W.getD 1 0).toNat + 3)] ∧ t.wrCnt = s.wrCnt + 1) ∨
    ((∃ d, i = .outLast d) ∧ t.Q = s.Q.tail ∧ t.rdCnt = s.rdCnt + 1) ∨
    (i = .reset ∧ t.Q = [])

/-- R26, R27: an error counter and its sticky flag are cleared only by CLEAR_LOG (a WR_CTRL with bit 2 set) or RESET, and `cntFrames` only by
RESET. -/
def Obligations.CountersNeverFallButByClear : Prop :=
  ∀ (i : Instr) (s t : State), exec i s = .next t → i ≠ .reset →
    s.cntFrames.toNat ≤ t.cntFrames.toNat ∧
    ((∀ v : Word, v.getLsbD 2 = true → i ≠ .wrCtrl v) →
      s.cntZlen.toNat ≤ t.cntZlen.toNat ∧ s.cntCsum.toNat ≤ t.cntCsum.toNat ∧ s.cntOvf.toNat ≤ t.cntOvf.toNat ∧
      (s.stkZlen = true → t.stkZlen = true) ∧ (s.stkCsum = true → t.stkCsum = true) ∧
      (s.stkOvf = true → t.stkOvf = true) ∧ (s.stkXport = true → t.stkXport = true))

/-- R72, R75, R76: words written out from R68, R69 and R72 decode to the operations they stand for. -/
def Obligations.WrittenOutWords : Prop :=
  decode (.input 0b0000010011#10) = .inByte 0x13 ∧
  decode (.input 0b0111100101#10) = .inLast 0xE5 ∧
  decode (.input 0b1000000000#10) = .inErr 0 ∧
  decode (.output 0b000010011#9) = .outByte 0x13 ∧
  decode (.output 0b111100101#9) = .outLast 0xE5 ∧
  decode (.register 0b100000000#9 0x5) = .wrCtrl 0x5 ∧
  decode (.register 0b100000100#9 0x5) = .wrIgnored 0x04 0x5 ∧
  decode (.register 0b000000100#9 0) = .rdStatus ∧
  decode (.register 0b000000101#9 0) = .rdRsvd 0x05

/-- R68 to R76: decoding the word of an operation gives the operation back, every operand at every value. -/
def Obligations.DecodeOfEncode : Prop :=
  ∀ (i : Instr) (p : PortWord), i.wf = true → encode i = some p → decode p = i

/-- R75: every word on every port selects a well-formed operation, whose word it is; only a read ignores its write data. -/
def Obligations.EveryWordSelectsAnOperation : Prop :=
  ∀ p : PortWord, (decode p).wf = true ∧
    (encode (decode p) = some p ∨ ∃ h v, p = .register h v ∧ h.getLsbD 8 = false ∧ encode (decode p) = some (.register h 0))

/-- R107, R121, R122: a cycle in which one port word is offered, and nothing else, is the decoded operation (for an output word: when it is
the word the block offers), between the clearing of the error event and the end of the cycle. With one clock the end is STOP_DONE
and the synchronization of the counts; with two, a `clk_p` edge ends with STOP_DONE and a `clk_c` edge with nothing. An accepted beat is
`exec` of its operation where `in_ready` holds. And for every cycle without reset, whatever is offered and chosen in it (R103, R104, R119,
R120): the register operation, then the accepted beat or else EVAL if it is chosen, then STOP_DONE, then with one clock the offered byte
if it is taken and the synchronization, with two clocks SYNC_C2P if it is chosen; a `clk_c` edge is the offered byte if it is taken, then
SYNC_P2C if it is chosen. A beat is accepted by `in_ready` of the cycle's start, also when the cycle's write has requested a stop, so there it
is `perform`, the operation's effect without that test. -/
def Obligations.StepRunsTheDecodedOperation : Prop :=
  (∀ (s : State) (p : PortWord) (ts : List Tick), s.build.legal = true → s.pending = tickOf p :: ts →
    (∀ w, p = .output w → outValid s = true ∧ outWord s = some w) →
    step s =
      (if s.build.asyncFifo = true then
        match p with
        | .output _ => exec (decode p) { s with pending := ts }
        | .input _ => andThen (exec (decode p) { s with pending := ts, errOut := none }) (exec .stopDone)
        | .register _ _ => andThen (exec (decode p) { s with pending := ts, errOut := none }) (exec .stopDone)
      else
        match p with
        | .output _ =>
          andThen (andThen (exec .stopDone { s with pending := ts, errOut := none }) (exec (decode p)))
            (fun t => .next { t with wrSeenC := t.wrCnt, rdSeenP := t.rdCnt })
        | .input _ =>
          andThen (andThen (exec (decode p) { s with pending := ts, errOut := none }) (exec .stopDone))
            (fun t => .next { t with wrSeenC := t.wrCnt, rdSeenP := t.rdCnt })
        | .register _ _ =>
          andThen (andThen (exec (decode p) { s with pending := ts, errOut := none }) (exec .stopDone))
            (fun t => .next { t with wrSeenC := t.wrCnt, rdSeenP := t.rdCnt }))) ∧
  (∀ (u : State) (w : BitVec 10), inReady u = true → exec (decode (.input w)) u = perform (decode (.input w)) u) ∧
  (∀ (s : State) (t : Tick) (ts : List Tick), s.build.legal = true → s.pending = t :: ts → t.rst = false →
    let reg : State → Result := fun u =>
      match t.reg with
      | some r => exec (decode (.register (regHeader r.we r.addr) r.wdata)) u
      | none => .next u
    let eval : State → Result := fun u => if t.evalNow = true then exec .eval u else .next u
    let engine : State → Result := fun u =>
      match t.beat with
      | some w => if inReady s = true then perform (decode (.input w)) u else eval u
      | none => eval u
    let producer : Result := andThen (andThen (reg { s with pending := ts, errOut := none }) engine) (exec .stopDone)
    let consumer : State → Result := fun u =>
      if t.outReady = true ∧ outValid s = true then
        match outWord s with
        | some w => exec (decode (.output w)) u
        | none => .fault .headByteMissing
      else .next u
    step s =
      if s.build.asyncFifo = true then
        match t.edge with
        | .clkP => andThen producer fun u =>
          match t.syncC2p with
          | some v => exec (.syncC2p v) u
          | none => .next u
        | .clkC => andThen (consumer { s with pending := ts }) fun u =>
          match t.syncP2c with
          | some v => exec (.syncP2c v) u
          | none => .next u
      else andThen (andThen producer consumer) fun u => .next { u with wrSeenC := u.wrCnt, rdSeenP := u.rdCnt })

/-- R31: the invariant (notes/assumptions/19.md) holds after reset of every legal build, of the model's `State.reset` too
(notes/assumptions/1.md), and the counts are synchronized. -/
def Obligations.ResetMeetsInvariant : Prop :=
  State.reset.Inv ∧ State.reset.Synced ∧
  ∀ b : Config.Build, b.legal = true → (State.resetOf b).Inv ∧ (State.resetOf b).Synced

/-- R31: every operation keeps the invariant (notes/assumptions/19.md). -/
def Obligations.ExecKeepsInvariant : Prop :=
  ∀ (i : Instr) (s t : State), s.Inv → exec i s = .next t → t.Inv

/-- R31, R121: every step keeps the invariant and the synchronization of the counts, whatever is offered in the cycle
(notes/assumptions/2.md, 19.md). -/
def Obligations.StepKeepsInvariant : Prop :=
  ∀ s t : State, s.Inv → s.Synced → step s = .next t → t.Inv ∧ t.Synced

/-- R75, R151: from every state that meets the invariant every step gives a next state: no word traps and no data stops the block
(notes/assumptions/10.md, 19.md). -/
def Obligations.StepNeverStops : Prop :=
  ∀ s : State, s.Inv → ∃ t, step s = .next t

/-- R7, R44: no step changes the parameters. -/
def Obligations.BuildNeverChanges : Prop :=
  ∀ s t : State, step s = .next t → t.build = s.build

/-- R105 (a), R145, R152: FAIL is left only by reset. -/
def Obligations.FailIsLeftOnlyByReset : Prop :=
  ∀ s t : State, s.mode = .fail → (nextTick s).rst = false → step s = .next t → t.mode = .fail

/-- R121: with one clock each domain has seen the other's counts after every cycle. -/
def Obligations.CountsSyncedAfterEveryCycle : Prop :=
  ∀ s t : State, s.build.asyncFifo = false → step s = .next t → t.wrSeenC = t.wrCnt ∧ t.rdSeenP = t.rdCnt

/-- R15, R122: with two clocks an edge of `clk_p` changes no consumer-domain element, and an edge of `clk_c` no producer-domain element. -/
def Obligations.DomainsChangeOnTheirOwnClock : Prop :=
  ∀ s t : State, s.build.asyncFifo = true → (nextTick s).rst = false → step s = .next t →
    ((nextTick s).edge = .clkP → t.rdCnt = s.rdCnt ∧ t.wrSeenC = s.wrSeenC ∧ t.rdOff = s.rdOff) ∧
    ((nextTick s).edge = .clkC →
      t.mode = s.mode ∧ t.W = s.W ∧ t.inRead = s.inRead ∧ t.scanning = s.scanning ∧ t.ovf = s.ovf ∧
      t.evalPending = s.evalPending ∧ t.stopReq = s.stopReq ∧ t.wrCnt = s.wrCnt ∧ t.rdSeenP = s.rdSeenP ∧
      t.cntFrames = s.cntFrames ∧ t.cntZlen = s.cntZlen ∧ t.cntCsum = s.cntCsum ∧ t.cntOvf = s.cntOvf ∧
      t.stkZlen = s.stkZlen ∧ t.stkCsum = s.stkCsum ∧ t.stkOvf = s.stkOvf ∧ t.stkXport = s.stkXport ∧
      t.errOut = s.errOut ∧ t.regRdata = s.regRdata)

/-- R124: while a byte is offered and not taken, the offer does not change. -/
def Obligations.OfferedByteIsStable : Prop :=
  ∀ s t : State, s.Inv → outValid s = true → (nextTick s).rst = false → (nextTick s).outReady = false → step s = .next t →
    outValid t = true ∧ outData t = outData s ∧ outLast t = outLast s

/-- R59, R127, R171: a read returns the value from the start of its cycle, whatever else happens in the cycle, and `reg_rdata` keeps its
value in a cycle without a read. -/
def Obligations.RegisterReadTiming : Prop :=
  ∀ s t : State, (nextTick s).rst = false → step s = .next t →
    (∀ (addr : Byte) (v : Word), (nextTick s).reg = some ⟨false, addr, v⟩ → (s.build.asyncFifo = true → (nextTick s).edge = .clkP) →
      exec (decodeRead addr) s = .next { s with regRdata := t.regRdata }) ∧
    ((∀ r, (nextTick s).reg = some r → r.we = true) → t.regRdata = s.regRdata)

/-- R28, R71: an error event is shown only for the cycle after an accepted IN_ERR or an EVAL: in every other producer cycle it ends. -/
def Obligations.ErrorEventLastsOneCycle : Prop :=
  ∀ s t : State, (nextTick s).rst = false → (s.build.asyncFifo = true → (nextTick s).edge = .clkP) →
    ((∃ w, (nextTick s).beat = some w ∧ w.getLsbD 9 = true) → inReady s = false) →
    ((nextTick s).evalNow = false ∨ s.evalPending = false) →
    step s = .next t → errValid t = false ∧ errCode t = 0

/-- R107, R141, R149 (b): an error raised in the cycle of a CLEAR_LOG is kept, because the clear comes first: each of the three errors of an
EVAL and an accepted IN_ERR; the rest of the log is cleared. -/
def Obligations.ErrorSurvivesClearOfItsCycle : Prop :=
  ∀ (s t : State) (v : Word), (nextTick s).rst = false → (nextTick s).reg = some ⟨true, 0, v⟩ → v.getLsbD 2 = true →
    (s.build.asyncFifo = true → (nextTick s).edge = .clkP) → step s = .next t →
    ((nextTick s).evalNow = true → s.evalPending = true →
      (s.ovf = true →
        errCode t = 4 ∧ t.cntOvf = 1 ∧ t.cntZlen = 0 ∧ t.cntCsum = 0 ∧
        t.stkOvf = true ∧ t.stkZlen = false ∧ t.stkCsum = false ∧ t.stkXport = false) ∧
      (s.ovf = false → 2 ≤ s.W.length → s.W.getD 1 0 = 0 →
        errCode t = 1 ∧ t.cntZlen = 1 ∧ t.cntCsum = 0 ∧ t.cntOvf = 0 ∧
        t.stkZlen = true ∧ t.stkCsum = false ∧ t.stkOvf = false ∧ t.stkXport = false) ∧
      (s.ovf = false → 2 ≤ s.W.length → s.W.getD 1 0 ≠ 0 → (s.W.getD 1 0).toNat + 3 ≤ s.W.length →
        sum8 (s.W.take ((s.W.getD 1 0).toNat + 3)) ≠ 0 →
        errCode t = 2 ∧ t.cntCsum = 1 ∧ t.cntZlen = 0 ∧ t.cntOvf = 0 ∧
        t.stkCsum = true ∧ t.stkZlen = false ∧ t.stkOvf = false ∧ t.stkXport = false)) ∧
    (∀ x : BitVec 9, (nextTick s).beat = some (0b1#1 ++ x) → inReady s = true →
      errCode t = 3 ∧ t.mode = .fail ∧ t.cntZlen = 0 ∧ t.cntCsum = 0 ∧ t.cntOvf = 0 ∧
      t.stkXport = true ∧ t.stkZlen = false ∧ t.stkCsum = false ∧ t.stkOvf = false)

/-- R106 (b), R107: a STOP written in the cycle of a read's first beat is deferred to the end of that read: the cycle leaves the stop requested
in RUN, with the read in progress or, when its first beat is its last, with its EVAL pending. A requested stop stays so while the read is in
progress or its EVAL pending, unless CTRL is written, the read fails or EVAL is taken; the step that takes the EVAL completes the stop. -/
def Obligations.StopInFirstBeatCycleIsDeferred : Prop :=
  (∀ (s t : State) (v : Word) (d : Byte), (nextTick s).rst = false → (nextTick s).reg = some ⟨true, 0, v⟩ →
    v.getLsbD 1 = true → (s.build.asyncFifo = true → (nextTick s).edge = .clkP) → inReady s = true → s.inRead = false →
    step s = .next t →
    ((nextTick s).beat = some (0b00#2 ++ d) → t.mode = .run ∧ t.stopReq = true ∧ t.inRead = true) ∧
    ((nextTick s).beat = some (0b01#2 ++ d) →
      t.mode = .run ∧ t.stopReq = true ∧ t.inRead = false ∧ t.evalPending = true)) ∧
  (∀ s t : State, (nextTick s).rst = false → (∀ r, (nextTick s).reg = some r → r.we = false ∨ r.addr ≠ 0) →
    s.mode = .run → s.stopReq = true → step s = .next t →
    ((s.inRead = true ∨ s.evalPending = true) →
      ((∃ w, (nextTick s).beat = some w ∧ w.getLsbD 9 = true) → inReady s = false) →
      ((nextTick s).evalNow = false ∨ s.evalPending = false) →
      t.mode = .run ∧ t.stopReq = true ∧ (t.inRead = true ∨ t.evalPending = true)) ∧
    (s.inRead = false → s.evalPending = true → (nextTick s).evalNow = true → evalEnabled s = true →
      (s.build.asyncFifo = true → (nextTick s).edge = .clkP) →
      t.mode = .stopped ∧ t.stopReq = false ∧ t.evalPending = false))

/-- R106 (a), R129 (d): a STOP written while the engine is idle takes effect in its cycle. -/
def Obligations.IdleStopTakesEffectInItsCycle : Prop :=
  ∀ (s t : State) (v : Word), (nextTick s).rst = false → (nextTick s).reg = some ⟨true, 0, v⟩ →
    v.getLsbD 1 = true → (nextTick s).beat = none → (s.build.asyncFifo = true → (nextTick s).edge = .clkP) →
    s.mode = .run → s.inRead = false → s.evalPending = false → step s = .next t →
    t.mode = .stopped ∧ t.stopReq = false ∧ t.W = s.W ∧ t.wrCnt = s.wrCnt

/-- R149 (d): a STOP written in the cycle of an accepted IN_ERR is not completed; the block is in FAIL with the request kept. -/
def Obligations.StopInTheCycleOfATransportFailure : Prop :=
  ∀ (s t : State) (v : Word) (x : BitVec 9), (nextTick s).rst = false → (nextTick s).reg = some ⟨true, 0, v⟩ →
    v.getLsbD 1 = true → (nextTick s).beat = some (0b1#1 ++ x) →
    (s.build.asyncFifo = true → (nextTick s).edge = .clkP) → inReady s = true →
    step s = .next t → t.mode = .fail ∧ t.stopReq = true ∧ errCode t = 3 ∧ t.stkXport = true

/-- R104: EVAL is never taken in the cycle that accepts its IN_LAST, even when it is chosen at once. -/
def Obligations.EvalNotInTheCycleOfItsLastBeat : Prop :=
  ∀ (s t : State) (d : Byte), (nextTick s).rst = false → (nextTick s).beat = some (0b01#2 ++ d) → inReady s = true →
    (s.build.asyncFifo = true → (nextTick s).edge = .clkP) → step s = .next t →
    t.evalPending = true ∧ inReady t = false ∧ t.wrCnt = s.wrCnt ∧ t.cntFrames = s.cntFrames ∧ errValid t = false

/-- R97, R103, R125: while a full queue holds up an EMIT, every cycle without reset leaves the input waiting and loses nothing. -/
def Obligations.FullQueueHoldsTheInput : Prop :=
  ∀ s t : State, s.evalPending = true → s.ovf = false → 2 ≤ s.W.length → s.W.getD 1 0 ≠ 0 →
    (s.W.getD 1 0).toNat + 3 ≤ s.W.length → sum8 (s.W.take ((s.W.getD 1 0).toNat + 3)) = 0 →
    ¬ (s.wrCnt : Int) - s.rdSeenP < s.build.qFrames → (nextTick s).rst = false → step s = .next t →
    t.W = s.W ∧ t.evalPending = true ∧ inReady t = false ∧ t.wrCnt = s.wrCnt ∧ t.inRead = s.inRead

/-- R8, R104, R106, R122, R176: in every fair run (`FairRun`, notes/assumptions/15.md) the internal steps wait finitely long. From a state `run n`
that meets the invariant, with no reset from there on: an enabled EVAL is taken after finitely many steps, until when its read stays pending and
the working frame stays as it is; every commit becomes visible to the consumer and every pop to the producer; STOP_DONE leaves no
`clk_p` cycle with its condition holding. Each clause about a clock that has to run supposes that it does (`ClockRuns`). -/
def Obligations.InternalStepsWaitFinitelyLong : Prop :=
  ∀ (run : Nat → State) (n : Nat), FairRun run → (run n).Inv → (run n).Synced → (∀ k, n ≤ k → (nextTick (run k)).rst = false) →
    (evalEnabled (run n) = true → ClockRuns .eval run →
      ∃ k, n ≤ k ∧ internalTaken .eval (run k) = true ∧ (run (k + 1)).evalPending = false ∧
        ∀ j, n ≤ j → j ≤ k → (run j).evalPending = true ∧ (run j).W = (run n).W) ∧
    (ClockRuns .syncP2c run → ∃ k, n ≤ k ∧ (run n).wrCnt ≤ (run k).wrSeenC) ∧
    (ClockRuns .syncC2p run → ∃ k, n ≤ k ∧ (run n).rdCnt ≤ (run k).rdSeenP) ∧
    (ownCycle .stopDone (run n) = true → stopEnabled (run (n + 1)) = false)

/-- R101: a cycle in which nothing is offered and no internal step is taken changes nothing but the error event, which ends; with two clocks a
`clk_c` edge at which no byte is taken and SYNC_P2C is not chosen changes nothing at all, whatever the producer's ports offer (R122). -/
def Obligations.QuietCycleChangesNothing : Prop :=
  ∀ (s : State) (t : Tick) (ts : List Tick), s.build.legal = true → s.Synced → s.pending = t :: ts →
    t.rst = false → t.outReady = false →
    ((s.build.asyncFifo = true → t.edge = .clkP) → t.reg = none → t.beat = none → t.evalNow = false → t.syncC2p = none →
      ¬(s.mode = .run ∧ s.stopReq = true ∧ s.inRead = false ∧ s.evalPending = false) →
      step s = .next { s with pending := ts, errOut := none }) ∧
    (s.build.asyncFifo = true → t.edge = .clkC → t.syncP2c = none → step s = .next { s with pending := ts })

/-- R82 to R88: the frame functions on every list on which the spec defines them. -/
def Obligations.FrameFunctionValues : Prop :=
  ∀ (a len : Byte) (rest : List Byte),
    isLengthByteRead [] = false ∧ isLengthByteRead [a] = false ∧ isLengthByteRead (a :: len :: rest) = true ∧
    isCompletePacket [] = false ∧ isCompletePacket [a] = false ∧ isZeroLength [] = false ∧ isZeroLength [a] = false ∧
    packetLength (a :: len :: rest) = some (len.toNat + 3) ∧
    isZeroLength (a :: len :: rest) = decide (len = 0) ∧
    (isCompletePacket (a :: len :: rest) = true ↔ len.toNat + 3 ≤ rest.length + 2) ∧
    (len.toNat + 3 ≤ rest.length + 2 → frameSum (a :: len :: rest) =
      some (BitVec.ofNat 8 (((a :: len :: rest).take (len.toNat + 3)).map BitVec.toNat).sum)) ∧
    validChecksum (a :: len :: rest) = some (decide (len.toNat + 3 ≤ rest.length + 2 ∧
      (((a :: len :: rest).take (len.toNat + 3)).map BitVec.toNat).sum % 256 = 0)) ∧
    (∀ (bs : List Byte) (start count : Nat), start + count ≤ bs.length → ∃ c, calculateChecksum bs start count = some c ∧
      (((bs.drop start).take count).map BitVec.toNat).sum % 256 = (256 - c.toNat) % 256)

/-- R91: a list extended by its checksum sums to zero, and is valid when it is exactly one frame. -/
def Obligations.ChecksumRoundTrip : Prop :=
  ∀ (b : List Byte) (c : Byte), calculateChecksum b 0 b.length = some c →
    sum8 (b ++ [c]) = 0 ∧
    (2 ≤ b.length → (b.getD 1 0).toNat + 3 = b.length + 1 → validChecksum (b ++ [c]) = some true)

/-- R89: the split of a complete frame and what follows it: the frame whole, the rest kept only when it begins with the sentinel. -/
def Obligations.SplitKeepsOrDropsTheLeftover : Prop :=
  ∀ (F rest : List Byte), packetLength F = some F.length →
    split (F ++ rest) = some (F, if rest.head? = some 0x13 then rest else [])

/-- R110: a valid frame that arrives in reads of its own is committed once, by the EVAL of the last, however it is divided; no EVAL before
that commits or drops anything
(reads as notes/assumptions/19.md delivers them: operations without the cycles around them, so `errOut` is only ever loaded, R28 and R71,
and `wrSeenC` is not synchronized, R121). -/
def Obligations.SplitReadEquivalence : Prop :=
  ∀ (s : State) (F : List Byte) (reads : List (List Byte)),
    s.IdleRun → s.build.legal = true → (s.wrCnt : Int) - s.rdSeenP < s.build.qFrames → validFrame F = true →
    reads.flatten = F → (∀ r ∈ reads, r ≠ []) →
    deliverReads reads s = .next { s with
      Q := s.Q ++ [F], wrCnt := s.wrCnt + 1, cntFrames := BitVec.ofNat 16 (min (s.cntFrames.toNat + 1) 65535) } ∧
    ∀ before after : List (List Byte), reads = before ++ after → after ≠ [] →
      deliverReads before s = .next { s with W := before.flatten }

/-- R111: a corrupted frame followed by a valid one, no read holding bytes of both: one CHECKSUM error, and the valid frame alone is
committed
(reads as notes/assumptions/19.md delivers them: operations without the cycles around them, so `wrSeenC` is not synchronized, R121, and the
event of the CHECKSUM error still stands after the beats of the valid frame, where in cycles it ends after one, R28 and R71). -/
def Obligations.Resynchronization : Prop :=
  ∀ (s : State) (C V : List Byte) (readsC readsV : List (List Byte)),
    s.IdleRun → s.build.legal = true → (s.wrCnt : Int) - s.rdSeenP < s.build.qFrames →
    corruptFrame C = true → validFrame V = true → readsC.flatten = C → readsV.flatten = V →
    (∀ r ∈ readsC, r ≠ []) → (∀ r ∈ readsV, r ≠ []) →
    deliverReads (readsC ++ readsV) s = .next { s with
      Q := s.Q ++ [V], wrCnt := s.wrCnt + 1, cntFrames := BitVec.ofNat 16 (min (s.cntFrames.toNat + 1) 65535),
      stkCsum := true, cntCsum := BitVec.ofNat 16 (min (s.cntCsum.toNat + 1) 65535), errOut := some .checksum }

/-- R111, R170: when one read holds the corrupted frame and bytes that follow it, they are cleared with it, a valid frame among them
(reads as notes/assumptions/19.md delivers them: operations without the cycles around them, so `errOut` is only ever loaded, R28 and R71,
and `wrSeenC` is not synchronized, R121). -/
def Obligations.MergedReadLosesWhatFollows : Prop :=
  ∀ (s : State) (C X : List Byte), s.IdleRun → s.build.legal = true → corruptFrame C = true →
    C.length + X.length ≤ s.build.bufBytes →
    deliverReads [C ++ X] s = .next { s with
      stkCsum := true, cntCsum := BitVec.ofNat 16 (min (s.cntCsum.toNat + 1) 65535), errOut := some .checksum }

/-- R144: a scanned read longer than the buffer is dropped whole by its EVAL, with BUF_OVERFLOW, a valid frame in it too
(reads as notes/assumptions/19.md delivers them: operations without the cycles around them, so `errOut` is only ever loaded, R28 and R71,
and `wrSeenC` is not synchronized, R121). -/
def Obligations.OverlongReadIsDropped : Prop :=
  ∀ (s : State) (r : List Byte), s.IdleRun → s.build.legal = true → r.head? = some 0x13 → s.build.bufBytes < r.length →
    deliverReads [r] s = .next { s with
      stkOvf := true, cntOvf := BitVec.ofNat 16 (min (s.cntOvf.toNat + 1) 65535), errOut := some .bufOverflow }

/-- R112: each read, with its EVAL, causes at most one commit, and every committed frame is valid
(reads as notes/assumptions/19.md delivers them). -/
def Obligations.OneCommitPerRead : Prop :=
  ∀ (s t : State) (r : List Byte), s.Inv → deliverReads [r] s = .next t →
    (t.Q = s.Q ∧ t.wrCnt = s.wrCnt) ∨ ∃ F, validFrame F = true ∧ t.Q = s.Q ++ [F] ∧ t.wrCnt = s.wrCnt + 1
end

