-- ==== Sys2Proof/Laws/State.lean ====
section
/-! SUPPORT. Each plain update of the state, field by field: what it writes and what it leaves. -/

namespace Sys2Proof.Machine

open Sys2Proof

@[simp] theorem enq_build (F : List Byte) (s : State) : (enq F s).build = s.build := rfl
@[simp] theorem enq_mode (F : List Byte) (s : State) : (enq F s).mode = s.mode := rfl
@[simp] theorem enq_W (F : List Byte) (s : State) : (enq F s).W = s.W := rfl
@[simp] theorem enq_inRead (F : List Byte) (s : State) : (enq F s).inRead = s.inRead := rfl
@[simp] theorem enq_scanning (F : List Byte) (s : State) : (enq F s).scanning = s.scanning := rfl
@[simp] theorem enq_ovf (F : List Byte) (s : State) : (enq F s).ovf = s.ovf := rfl
@[simp] theorem enq_evalPending (F : List Byte) (s : State) : (enq F s).evalPending = s.evalPending := rfl
@[simp] theorem enq_stopReq (F : List Byte) (s : State) : (enq F s).stopReq = s.stopReq := rfl
@[simp] theorem enq_Q (F : List Byte) (s : State) : (enq F s).Q = s.Q ++ [F] := rfl
@[simp] theorem enq_wrCnt (F : List Byte) (s : State) : (enq F s).wrCnt = s.wrCnt + 1 := rfl
@[simp] theorem enq_rdSeenP (F : List Byte) (s : State) : (enq F s).rdSeenP = s.rdSeenP := rfl
@[simp] theorem enq_rdCnt (F : List Byte) (s : State) : (enq F s).rdCnt = s.rdCnt := rfl
@[simp] theorem enq_wrSeenC (F : List Byte) (s : State) : (enq F s).wrSeenC = s.wrSeenC := rfl
@[simp] theorem enq_rdOff (F : List Byte) (s : State) : (enq F s).rdOff = s.rdOff := rfl
@[simp] theorem enq_cntFrames (F : List Byte) (s : State) : (enq F s).cntFrames = s.cntFrames := rfl
@[simp] theorem enq_cntZlen (F : List Byte) (s : State) : (enq F s).cntZlen = s.cntZlen := rfl
@[simp] theorem enq_cntCsum (F : List Byte) (s : State) : (enq F s).cntCsum = s.cntCsum := rfl
@[simp] theorem enq_cntOvf (F : List Byte) (s : State) : (enq F s).cntOvf = s.cntOvf := rfl
@[simp] theorem enq_stkZlen (F : List Byte) (s : State) : (enq F s).stkZlen = s.stkZlen := rfl
@[simp] theorem enq_stkCsum (F : List Byte) (s : State) : (enq F s).stkCsum = s.stkCsum := rfl
@[simp] theorem enq_stkOvf (F : List Byte) (s : State) : (enq F s).stkOvf = s.stkOvf := rfl
@[simp] theorem enq_stkXport (F : List Byte) (s : State) : (enq F s).stkXport = s.stkXport := rfl
@[simp] theorem enq_errOut (F : List Byte) (s : State) : (enq F s).errOut = s.errOut := rfl
@[simp] theorem enq_regRdata (F : List Byte) (s : State) : (enq F s).regRdata = s.regRdata := rfl
@[simp] theorem enq_pending (F : List Byte) (s : State) : (enq F s).pending = s.pending := rfl
@[simp] theorem enq_drawn (F : List Byte) (s : State) : (enq F s).drawn = s.drawn := rfl

@[simp] theorem clearW_build (s : State) : (clearW s).build = s.build := rfl
@[simp] theorem clearW_mode (s : State) : (clearW s).mode = s.mode := rfl
@[simp] theorem clearW_W (s : State) : (clearW s).W = [] := rfl
@[simp] theorem clearW_inRead (s : State) : (clearW s).inRead = s.inRead := rfl
@[simp] theorem clearW_scanning (s : State) : (clearW s).scanning = s.scanning := rfl
@[simp] theorem clearW_ovf (s : State) : (clearW s).ovf = s.ovf := rfl
@[simp] theorem clearW_evalPending (s : State) : (clearW s).evalPending = s.evalPending := rfl
@[simp] theorem clearW_stopReq (s : State) : (clearW s).stopReq = s.stopReq := rfl
@[simp] theorem clearW_Q (s : State) : (clearW s).Q = s.Q := rfl
@[simp] theorem clearW_wrCnt (s : State) : (clearW s).wrCnt = s.wrCnt := rfl
@[simp] theorem clearW_rdSeenP (s : State) : (clearW s).rdSeenP = s.rdSeenP := rfl
@[simp] theorem clearW_rdCnt (s : State) : (clearW s).rdCnt = s.rdCnt := rfl
@[simp] theorem clearW_wrSeenC (s : State) : (clearW s).wrSeenC = s.wrSeenC := rfl
@[simp] theorem clearW_rdOff (s : State) : (clearW s).rdOff = s.rdOff := rfl
@[simp] theorem clearW_cntFrames (s : State) : (clearW s).cntFrames = s.cntFrames := rfl
@[simp] theorem clearW_cntZlen (s : State) : (clearW s).cntZlen = s.cntZlen := rfl
@[simp] theorem clearW_cntCsum (s : State) : (clearW s).cntCsum = s.cntCsum := rfl
@[simp] theorem clearW_cntOvf (s : State) : (clearW s).cntOvf = s.cntOvf := rfl
@[simp] theorem clearW_stkZlen (s : State) : (clearW s).stkZlen = s.stkZlen := rfl
@[simp] theorem clearW_stkCsum (s : State) : (clearW s).stkCsum = s.stkCsum := rfl
@[simp] theorem clearW_stkOvf (s : State) : (clearW s).stkOvf = s.stkOvf := rfl
@[simp] theorem clearW_stkXport (s : State) : (clearW s).stkXport = s.stkXport := rfl
@[simp] theorem clearW_errOut (s : State) : (clearW s).errOut = s.errOut := rfl
@[simp] theorem clearW_regRdata (s : State) : (clearW s).regRdata = s.regRdata := rfl
@[simp] theorem clearW_pending (s : State) : (clearW s).pending = s.pending := rfl
@[simp] theorem clearW_drawn (s : State) : (clearW s).drawn = s.drawn := rfl

@[simp] theorem readReg_build (v : Word) (s : State) : (readReg v s).build = s.build := rfl
@[simp] theorem readReg_mode (v : Word) (s : State) : (readReg v s).mode = s.mode := rfl
@[simp] theorem readReg_W (v : Word) (s : State) : (readReg v s).W = s.W := rfl
@[simp] theorem readReg_inRead (v : Word) (s : State) : (readReg v s).inRead = s.inRead := rfl
@[simp] theorem readReg_scanning (v : Word) (s : State) : (readReg v s).scanning = s.scanning := rfl
@[simp] theorem readReg_ovf (v : Word) (s : State) : (readReg v s).ovf = s.ovf := rfl
@[simp] theorem readReg_evalPending (v : Word) (s : State) : (readReg v s).evalPending = s.evalPending := rfl
@[simp] theorem readReg_stopReq (v : Word) (s : State) : (readReg v s).stopReq = s.stopReq := rfl
@[simp] theorem readReg_Q (v : Word) (s : State) : (readReg v s).Q = s.Q := rfl
@[simp] theorem readReg_wrCnt (v : Word) (s : State) : (readReg v s).wrCnt = s.wrCnt := rfl
@[simp] theorem readReg_rdSeenP (v : Word) (s : State) : (readReg v s).rdSeenP = s.rdSeenP := rfl
@[simp] theorem readReg_rdCnt (v : Word) (s : State) : (readReg v s).rdCnt = s.rdCnt := rfl
@[simp] theorem readReg_wrSeenC (v : Word) (s : State) : (readReg v s).wrSeenC = s.wrSeenC := rfl
@[simp] theorem readReg_rdOff (v : Word) (s : State) : (readReg v s).rdOff = s.rdOff := rfl
@[simp] theorem readReg_cntFrames (v : Word) (s : State) : (readReg v s).cntFrames = s.cntFrames := rfl
@[simp] theorem readReg_cntZlen (v : Word) (s : State) : (readReg v s).cntZlen = s.cntZlen := rfl
@[simp] theorem readReg_cntCsum (v : Word) (s : State) : (readReg v s).cntCsum = s.cntCsum := rfl
@[simp] theorem readReg_cntOvf (v : Word) (s : State) : (readReg v s).cntOvf = s.cntOvf := rfl
@[simp] theorem readReg_stkZlen (v : Word) (s : State) : (readReg v s).stkZlen = s.stkZlen := rfl
@[simp] theorem readReg_stkCsum (v : Word) (s : State) : (readReg v s).stkCsum = s.stkCsum := rfl
@[simp] theorem readReg_stkOvf (v : Word) (s : State) : (readReg v s).stkOvf = s.stkOvf := rfl
@[simp] theorem readReg_stkXport (v : Word) (s : State) : (readReg v s).stkXport = s.stkXport := rfl
@[simp] theorem readReg_errOut (v : Word) (s : State) : (readReg v s).errOut = s.errOut := rfl
@[simp] theorem readReg_regRdata (v : Word) (s : State) : (readReg v s).regRdata = v := rfl
@[simp] theorem readReg_pending (v : Word) (s : State) : (readReg v s).pending = s.pending := rfl
@[simp] theorem readReg_drawn (v : Word) (s : State) : (readReg v s).drawn = s.drawn := rfl

@[simp] theorem clearLog_build (s : State) : (clearLog s).build = s.build := rfl
@[simp] theorem clearLog_mode (s : State) : (clearLog s).mode = s.mode := rfl
@[simp] theorem clearLog_W (s : State) : (clearLog s).W = s.W := rfl
@[simp] theorem clearLog_inRead (s : State) : (clearLog s).inRead = s.inRead := rfl
@[simp] theorem clearLog_scanning (s : State) : (clearLog s).scanning = s.scanning := rfl
@[simp] theorem clearLog_ovf (s : State) : (clearLog s).ovf = s.ovf := rfl
@[simp] theorem clearLog_evalPending (s : State) : (clearLog s).evalPending = s.evalPending := rfl
@[simp] theorem clearLog_stopReq (s : State) : (clearLog s).stopReq = s.stopReq := rfl
@[simp] theorem clearLog_Q (s : State) : (clearLog s).Q = s.Q := rfl
@[simp] theorem clearLog_wrCnt (s : State) : (clearLog s).wrCnt = s.wrCnt := rfl
@[simp] theorem clearLog_rdSeenP (s : State) : (clearLog s).rdSeenP = s.rdSeenP := rfl
@[simp] theorem clearLog_rdCnt (s : State) : (clearLog s).rdCnt = s.rdCnt := rfl
@[simp] theorem clearLog_wrSeenC (s : State) : (clearLog s).wrSeenC = s.wrSeenC := rfl
@[simp] theorem clearLog_rdOff (s : State) : (clearLog s).rdOff = s.rdOff := rfl
@[simp] theorem clearLog_cntFrames (s : State) : (clearLog s).cntFrames = s.cntFrames := rfl
@[simp] theorem clearLog_cntZlen (s : State) : (clearLog s).cntZlen = 0 := rfl
@[simp] theorem clearLog_cntCsum (s : State) : (clearLog s).cntCsum = 0 := rfl
@[simp] theorem clearLog_cntOvf (s : State) : (clearLog s).cntOvf = 0 := rfl
@[simp] theorem clearLog_stkZlen (s : State) : (clearLog s).stkZlen = false := rfl
@[simp] theorem clearLog_stkCsum (s : State) : (clearLog s).stkCsum = false := rfl
@[simp] theorem clearLog_stkOvf (s : State) : (clearLog s).stkOvf = false := rfl
@[simp] theorem clearLog_stkXport (s : State) : (clearLog s).stkXport = false := rfl
@[simp] theorem clearLog_errOut (s : State) : (clearLog s).errOut = s.errOut := rfl
@[simp] theorem clearLog_regRdata (s : State) : (clearLog s).regRdata = s.regRdata := rfl
@[simp] theorem clearLog_pending (s : State) : (clearLog s).pending = s.pending := rfl
@[simp] theorem clearLog_drawn (s : State) : (clearLog s).drawn = s.drawn := rfl

@[simp] theorem startCycle_build (s : State) : (startCycle s).build = s.build := rfl
@[simp] theorem startCycle_mode (s : State) : (startCycle s).mode = s.mode := rfl
@[simp] theorem startCycle_W (s : State) : (startCycle s).W = s.W := rfl
@[simp] theorem startCycle_inRead (s : State) : (startCycle s).inRead = s.inRead := rfl
@[simp] theorem startCycle_scanning (s : State) : (startCycle s).scanning = s.scanning := rfl
@[simp] theorem startCycle_ovf (s : State) : (startCycle s).ovf = s.ovf := rfl
@[simp] theorem startCycle_evalPending (s : State) : (startCycle s).evalPending = s.evalPending := rfl
@[simp] theorem startCycle_stopReq (s : State) : (startCycle s).stopReq = s.stopReq := rfl
@[simp] theorem startCycle_Q (s : State) : (startCycle s).Q = s.Q := rfl
@[simp] theorem startCycle_wrCnt (s : State) : (startCycle s).wrCnt = s.wrCnt := rfl
@[simp] theorem startCycle_rdSeenP (s : State) : (startCycle s).rdSeenP = s.rdSeenP := rfl
@[simp] theorem startCycle_rdCnt (s : State) : (startCycle s).rdCnt = s.rdCnt := rfl
@[simp] theorem startCycle_wrSeenC (s : State) : (startCycle s).wrSeenC = s.wrSeenC := rfl
@[simp] theorem startCycle_rdOff (s : State) : (startCycle s).rdOff = s.rdOff := rfl
@[simp] theorem startCycle_cntFrames (s : State) : (startCycle s).cntFrames = s.cntFrames := rfl
@[simp] theorem startCycle_cntZlen (s : State) : (startCycle s).cntZlen = s.cntZlen := rfl
@[simp] theorem startCycle_cntCsum (s : State) : (startCycle s).cntCsum = s.cntCsum := rfl
@[simp] theorem startCycle_cntOvf (s : State) : (startCycle s).cntOvf = s.cntOvf := rfl
@[simp] theorem startCycle_stkZlen (s : State) : (startCycle s).stkZlen = s.stkZlen := rfl
@[simp] theorem startCycle_stkCsum (s : State) : (startCycle s).stkCsum = s.stkCsum := rfl
@[simp] theorem startCycle_stkOvf (s : State) : (startCycle s).stkOvf = s.stkOvf := rfl
@[simp] theorem startCycle_stkXport (s : State) : (startCycle s).stkXport = s.stkXport := rfl
@[simp] theorem startCycle_errOut (s : State) : (startCycle s).errOut = none := rfl
@[simp] theorem startCycle_regRdata (s : State) : (startCycle s).regRdata = s.regRdata := rfl
@[simp] theorem startCycle_pending (s : State) : (startCycle s).pending = s.pending := rfl
@[simp] theorem startCycle_drawn (s : State) : (startCycle s).drawn = s.drawn := rfl

@[simp] theorem syncAll_build (s : State) : (syncAll s).build = s.build := rfl
@[simp] theorem syncAll_mode (s : State) : (syncAll s).mode = s.mode := rfl
@[simp] theorem syncAll_W (s : State) : (syncAll s).W = s.W := rfl
@[simp] theorem syncAll_inRead (s : State) : (syncAll s).inRead = s.inRead := rfl
@[simp] theorem syncAll_scanning (s : State) : (syncAll s).scanning = s.scanning := rfl
@[simp] theorem syncAll_ovf (s : State) : (syncAll s).ovf = s.ovf := rfl
@[simp] theorem syncAll_evalPending (s : State) : (syncAll s).evalPending = s.evalPending := rfl
@[simp] theorem syncAll_stopReq (s : State) : (syncAll s).stopReq = s.stopReq := rfl
@[simp] theorem syncAll_Q (s : State) : (syncAll s).Q = s.Q := rfl
@[simp] theorem syncAll_wrCnt (s : State) : (syncAll s).wrCnt = s.wrCnt := rfl
@[simp] theorem syncAll_rdSeenP (s : State) : (syncAll s).rdSeenP = s.rdCnt := rfl
@[simp] theorem syncAll_rdCnt (s : State) : (syncAll s).rdCnt = s.rdCnt := rfl
@[simp] theorem syncAll_wrSeenC (s : State) : (syncAll s).wrSeenC = s.wrCnt := rfl
@[simp] theorem syncAll_rdOff (s : State) : (syncAll s).rdOff = s.rdOff := rfl
@[simp] theorem syncAll_cntFrames (s : State) : (syncAll s).cntFrames = s.cntFrames := rfl
@[simp] theorem syncAll_cntZlen (s : State) : (syncAll s).cntZlen = s.cntZlen := rfl
@[simp] theorem syncAll_cntCsum (s : State) : (syncAll s).cntCsum = s.cntCsum := rfl
@[simp] theorem syncAll_cntOvf (s : State) : (syncAll s).cntOvf = s.cntOvf := rfl
@[simp] theorem syncAll_stkZlen (s : State) : (syncAll s).stkZlen = s.stkZlen := rfl
@[simp] theorem syncAll_stkCsum (s : State) : (syncAll s).stkCsum = s.stkCsum := rfl
@[simp] theorem syncAll_stkOvf (s : State) : (syncAll s).stkOvf = s.stkOvf := rfl
@[simp] theorem syncAll_stkXport (s : State) : (syncAll s).stkXport = s.stkXport := rfl
@[simp] theorem syncAll_errOut (s : State) : (syncAll s).errOut = s.errOut := rfl
@[simp] theorem syncAll_regRdata (s : State) : (syncAll s).regRdata = s.regRdata := rfl
@[simp] theorem syncAll_pending (s : State) : (syncAll s).pending = s.pending := rfl
@[simp] theorem syncAll_drawn (s : State) : (syncAll s).drawn = s.drawn := rfl

@[simp] theorem inErrOp_build (s : State) : (inErrOp s).build = s.build := rfl
@[simp] theorem inErrOp_mode (s : State) : (inErrOp s).mode = .fail := rfl
@[simp] theorem inErrOp_W (s : State) : (inErrOp s).W = s.W := rfl
@[simp] theorem inErrOp_inRead (s : State) : (inErrOp s).inRead = s.inRead := rfl
@[simp] theorem inErrOp_scanning (s : State) : (inErrOp s).scanning = s.scanning := rfl
@[simp] theorem inErrOp_ovf (s : State) : (inErrOp s).ovf = s.ovf := rfl
@[simp] theorem inErrOp_evalPending (s : State) : (inErrOp s).evalPending = s.evalPending := rfl
@[simp] theorem inErrOp_stopReq (s : State) : (inErrOp s).stopReq = s.stopReq := rfl
@[simp] theorem inErrOp_Q (s : State) : (inErrOp s).Q = s.Q := rfl
@[simp] theorem inErrOp_wrCnt (s : State) : (inErrOp s).wrCnt = s.wrCnt := rfl
@[simp] theorem inErrOp_rdSeenP (s : State) : (inErrOp s).rdSeenP = s.rdSeenP := rfl
@[simp] theorem inErrOp_rdCnt (s : State) : (inErrOp s).rdCnt = s.rdCnt := rfl
@[simp] theorem inErrOp_wrSeenC (s : State) : (inErrOp s).wrSeenC = s.wrSeenC := rfl
@[simp] theorem inErrOp_rdOff (s : State) : (inErrOp s).rdOff = s.rdOff := rfl
@[simp] theorem inErrOp_cntFrames (s : State) : (inErrOp s).cntFrames = s.cntFrames := rfl
@[simp] theorem inErrOp_cntZlen (s : State) : (inErrOp s).cntZlen = s.cntZlen := rfl
@[simp] theorem inErrOp_cntCsum (s : State) : (inErrOp s).cntCsum = s.cntCsum := rfl
@[simp] theorem inErrOp_cntOvf (s : State) : (inErrOp s).cntOvf = s.cntOvf := rfl
@[simp] theorem inErrOp_stkZlen (s : State) : (inErrOp s).stkZlen = s.stkZlen := rfl
@[simp] theorem inErrOp_stkCsum (s : State) : (inErrOp s).stkCsum = s.stkCsum := rfl
@[simp] theorem inErrOp_stkOvf (s : State) : (inErrOp s).stkOvf = s.stkOvf := rfl
@[simp] theorem inErrOp_stkXport (s : State) : (inErrOp s).stkXport = true := rfl
@[simp] theorem inErrOp_errOut (s : State) : (inErrOp s).errOut = some .transport := rfl
@[simp] theorem inErrOp_regRdata (s : State) : (inErrOp s).regRdata = s.regRdata := rfl
@[simp] theorem inErrOp_pending (s : State) : (inErrOp s).pending = s.pending := rfl
@[simp] theorem inErrOp_drawn (s : State) : (inErrOp s).drawn = s.drawn := rfl

@[simp] theorem outByteOp_build (s : State) : (outByteOp s).build = s.build := rfl
@[simp] theorem outByteOp_mode (s : State) : (outByteOp s).mode = s.mode := rfl
@[simp] theorem outByteOp_W (s : State) : (outByteOp s).W = s.W := rfl
@[simp] theorem outByteOp_inRead (s : State) : (outByteOp s).inRead = s.inRead := rfl
@[simp] theorem outByteOp_scanning (s : State) : (outByteOp s).scanning = s.scanning := rfl
@[simp] theorem outByteOp_ovf (s : State) : (outByteOp s).ovf = s.ovf := rfl
@[simp] theorem outByteOp_evalPending (s : State) : (outByteOp s).evalPending = s.evalPending := rfl
@[simp] theorem outByteOp_stopReq (s : State) : (outByteOp s).stopReq = s.stopReq := rfl
@[simp] theorem outByteOp_Q (s : State) : (outByteOp s).Q = s.Q := rfl
@[simp] theorem outByteOp_wrCnt (s : State) : (outByteOp s).wrCnt = s.wrCnt := rfl
@[simp] theorem outByteOp_rdSeenP (s : State) : (outByteOp s).rdSeenP = s.rdSeenP := rfl
@[simp] theorem outByteOp_rdCnt (s : State) : (outByteOp s).rdCnt = s.rdCnt := rfl
@[simp] theorem outByteOp_wrSeenC (s : State) : (outByteOp s).wrSeenC = s.wrSeenC := rfl
@[simp] theorem outByteOp_rdOff (s : State) : (outByteOp s).rdOff = s.rdOff + 1 := rfl
@[simp] theorem outByteOp_cntFrames (s : State) : (outByteOp s).cntFrames = s.cntFrames := rfl
@[simp] theorem outByteOp_cntZlen (s : State) : (outByteOp s).cntZlen = s.cntZlen := rfl
@[simp] theorem outByteOp_cntCsum (s : State) : (outByteOp s).cntCsum = s.cntCsum := rfl
@[simp] theorem outByteOp_cntOvf (s : State) : (outByteOp s).cntOvf = s.cntOvf := rfl
@[simp] theorem outByteOp_stkZlen (s : State) : (outByteOp s).stkZlen = s.stkZlen := rfl
@[simp] theorem outByteOp_stkCsum (s : State) : (outByteOp s).stkCsum = s.stkCsum := rfl
@[simp] theorem outByteOp_stkOvf (s : State) : (outByteOp s).stkOvf = s.stkOvf := rfl
@[simp] theorem outByteOp_stkXport (s : State) : (outByteOp s).stkXport = s.stkXport := rfl
@[simp] theorem outByteOp_errOut (s : State) : (outByteOp s).errOut = s.errOut := rfl
@[simp] theorem outByteOp_regRdata (s : State) : (outByteOp s).regRdata = s.regRdata := rfl
@[simp] theorem outByteOp_pending (s : State) : (outByteOp s).pending = s.pending := rfl
@[simp] theorem outByteOp_drawn (s : State) : (outByteOp s).drawn = s.drawn := rfl

@[simp] theorem outLastOp_build (s : State) : (outLastOp s).build = s.build := rfl
@[simp] theorem outLastOp_mode (s : State) : (outLastOp s).mode = s.mode := rfl
@[simp] theorem outLastOp_W (s : State) : (outLastOp s).W = s.W := rfl
@[simp] theorem outLastOp_inRead (s : State) : (outLastOp s).inRead = s.inRead := rfl
@[simp] theorem outLastOp_scanning (s : State) : (outLastOp s).scanning = s.scanning := rfl
@[simp] theorem outLastOp_ovf (s : State) : (outLastOp s).ovf = s.ovf := rfl
@[simp] theorem outLastOp_evalPending (s : State) : (outLastOp s).evalPending = s.evalPending := rfl
@[simp] theorem outLastOp_stopReq (s : State) : (outLastOp s).stopReq = s.stopReq := rfl
@[simp] theorem outLastOp_Q (s : State) : (outLastOp s).Q = s.Q.tail := rfl
@[simp] theorem outLastOp_wrCnt (s : State) : (outLastOp s).wrCnt = s.wrCnt := rfl
@[simp] theorem outLastOp_rdSeenP (s : State) : (outLastOp s).rdSeenP = s.rdSeenP := rfl
@[simp] theorem outLastOp_rdCnt (s : State) : (outLastOp s).rdCnt = s.rdCnt + 1 := rfl
@[simp] theorem outLastOp_wrSeenC (s : State) : (outLastOp s).wrSeenC = s.wrSeenC := rfl
@[simp] theorem outLastOp_rdOff (s : State) : (outLastOp s).rdOff = 0 := rfl
@[simp] theorem outLastOp_cntFrames (s : State) : (outLastOp s).cntFrames = s.cntFrames := rfl
@[simp] theorem outLastOp_cntZlen (s : State) : (outLastOp s).cntZlen = s.cntZlen := rfl
@[simp] theorem outLastOp_cntCsum (s : State) : (outLastOp s).cntCsum = s.cntCsum := rfl
@[simp] theorem outLastOp_cntOvf (s : State) : (outLastOp s).cntOvf = s.cntOvf := rfl
@[simp] theorem outLastOp_stkZlen (s : State) : (outLastOp s).stkZlen = s.stkZlen := rfl
@[simp] theorem outLastOp_stkCsum (s : State) : (outLastOp s).stkCsum = s.stkCsum := rfl
@[simp] theorem outLastOp_stkOvf (s : State) : (outLastOp s).stkOvf = s.stkOvf := rfl
@[simp] theorem outLastOp_stkXport (s : State) : (outLastOp s).stkXport = s.stkXport := rfl
@[simp] theorem outLastOp_errOut (s : State) : (outLastOp s).errOut = s.errOut := rfl
@[simp] theorem outLastOp_regRdata (s : State) : (outLastOp s).regRdata = s.regRdata := rfl
@[simp] theorem outLastOp_pending (s : State) : (outLastOp s).pending = s.pending := rfl
@[simp] theorem outLastOp_drawn (s : State) : (outLastOp s).drawn = s.drawn := rfl

@[simp] theorem evalDone_build (s : State) : (evalDone s).build = s.build := rfl
@[simp] theorem evalDone_mode (s : State) : (evalDone s).mode = s.mode := rfl
@[simp] theorem evalDone_W (s : State) : (evalDone s).W = s.W := rfl
@[simp] theorem evalDone_inRead (s : State) : (evalDone s).inRead = s.inRead := rfl
@[simp] theorem evalDone_scanning (s : State) : (evalDone s).scanning = s.scanning := rfl
@[simp] theorem evalDone_ovf (s : State) : (evalDone s).ovf = s.ovf := rfl
@[simp] theorem evalDone_evalPending (s : State) : (evalDone s).evalPending = false := rfl
@[simp] theorem evalDone_stopReq (s : State) : (evalDone s).stopReq = s.stopReq := rfl
@[simp] theorem evalDone_Q (s : State) : (evalDone s).Q = s.Q := rfl
@[simp] theorem evalDone_wrCnt (s : State) : (evalDone s).wrCnt = s.wrCnt := rfl
@[simp] theorem evalDone_rdSeenP (s : State) : (evalDone s).rdSeenP = s.rdSeenP := rfl
@[simp] theorem evalDone_rdCnt (s : State) : (evalDone s).rdCnt = s.rdCnt := rfl
@[simp] theorem evalDone_wrSeenC (s : State) : (evalDone s).wrSeenC = s.wrSeenC := rfl
@[simp] theorem evalDone_rdOff (s : State) : (evalDone s).rdOff = s.rdOff := rfl
@[simp] theorem evalDone_cntFrames (s : State) : (evalDone s).cntFrames = s.cntFrames := rfl
@[simp] theorem evalDone_cntZlen (s : State) : (evalDone s).cntZlen = s.cntZlen := rfl
@[simp] theorem evalDone_cntCsum (s : State) : (evalDone s).cntCsum = s.cntCsum := rfl
@[simp] theorem evalDone_cntOvf (s : State) : (evalDone s).cntOvf = s.cntOvf := rfl
@[simp] theorem evalDone_stkZlen (s : State) : (evalDone s).stkZlen = s.stkZlen := rfl
@[simp] theorem evalDone_stkCsum (s : State) : (evalDone s).stkCsum = s.stkCsum := rfl
@[simp] theorem evalDone_stkOvf (s : State) : (evalDone s).stkOvf = s.stkOvf := rfl
@[simp] theorem evalDone_stkXport (s : State) : (evalDone s).stkXport = s.stkXport := rfl
@[simp] theorem evalDone_errOut (s : State) : (evalDone s).errOut = s.errOut := rfl
@[simp] theorem evalDone_regRdata (s : State) : (evalDone s).regRdata = s.regRdata := rfl
@[simp] theorem evalDone_pending (s : State) : (evalDone s).pending = s.pending := rfl
@[simp] theorem evalDone_drawn (s : State) : (evalDone s).drawn = s.drawn := rfl

@[simp] theorem stopDoneOp_build (s : State) : (stopDoneOp s).build = s.build := rfl
@[simp] theorem stopDoneOp_mode (s : State) : (stopDoneOp s).mode = .stopped := rfl
@[simp] theorem stopDoneOp_W (s : State) : (stopDoneOp s).W = s.W := rfl
@[simp] theorem stopDoneOp_inRead (s : State) : (stopDoneOp s).inRead = s.inRead := rfl
@[simp] theorem stopDoneOp_scanning (s : State) : (stopDoneOp s).scanning = s.scanning := rfl
@[simp] theorem stopDoneOp_ovf (s : State) : (stopDoneOp s).ovf = s.ovf := rfl
@[simp] theorem stopDoneOp_evalPending (s : State) : (stopDoneOp s).evalPending = s.evalPending := rfl
@[simp] theorem stopDoneOp_stopReq (s : State) : (stopDoneOp s).stopReq = false := rfl
@[simp] theorem stopDoneOp_Q (s : State) : (stopDoneOp s).Q = s.Q := rfl
@[simp] theorem stopDoneOp_wrCnt (s : State) : (stopDoneOp s).wrCnt = s.wrCnt := rfl
@[simp] theorem stopDoneOp_rdSeenP (s : State) : (stopDoneOp s).rdSeenP = s.rdSeenP := rfl
@[simp] theorem stopDoneOp_rdCnt (s : State) : (stopDoneOp s).rdCnt = s.rdCnt := rfl
@[simp] theorem stopDoneOp_wrSeenC (s : State) : (stopDoneOp s).wrSeenC = s.wrSeenC := rfl
@[simp] theorem stopDoneOp_rdOff (s : State) : (stopDoneOp s).rdOff = s.rdOff := rfl
@[simp] theorem stopDoneOp_cntFrames (s : State) : (stopDoneOp s).cntFrames = s.cntFrames := rfl
@[simp] theorem stopDoneOp_cntZlen (s : State) : (stopDoneOp s).cntZlen = s.cntZlen := rfl
@[simp] theorem stopDoneOp_cntCsum (s : State) : (stopDoneOp s).cntCsum = s.cntCsum := rfl
@[simp] theorem stopDoneOp_cntOvf (s : State) : (stopDoneOp s).cntOvf = s.cntOvf := rfl
@[simp] theorem stopDoneOp_stkZlen (s : State) : (stopDoneOp s).stkZlen = s.stkZlen := rfl
@[simp] theorem stopDoneOp_stkCsum (s : State) : (stopDoneOp s).stkCsum = s.stkCsum := rfl
@[simp] theorem stopDoneOp_stkOvf (s : State) : (stopDoneOp s).stkOvf = s.stkOvf := rfl
@[simp] theorem stopDoneOp_stkXport (s : State) : (stopDoneOp s).stkXport = s.stkXport := rfl
@[simp] theorem stopDoneOp_errOut (s : State) : (stopDoneOp s).errOut = s.errOut := rfl
@[simp] theorem stopDoneOp_regRdata (s : State) : (stopDoneOp s).regRdata = s.regRdata := rfl
@[simp] theorem stopDoneOp_pending (s : State) : (stopDoneOp s).pending = s.pending := rfl
@[simp] theorem stopDoneOp_drawn (s : State) : (stopDoneOp s).drawn = s.drawn := rfl

@[simp] theorem syncP2cOp_build (v : Nat) (s : State) : (syncP2cOp v s).build = s.build := rfl
@[simp] theorem syncP2cOp_mode (v : Nat) (s : State) : (syncP2cOp v s).mode = s.mode := rfl
@[simp] theorem syncP2cOp_W (v : Nat) (s : State) : (syncP2cOp v s).W = s.W := rfl
@[simp] theorem syncP2cOp_inRead (v : Nat) (s : State) : (syncP2cOp v s).inRead = s.inRead := rfl
@[simp] theorem syncP2cOp_scanning (v : Nat) (s : State) : (syncP2cOp v s).scanning = s.scanning := rfl
@[simp] theorem syncP2cOp_ovf (v : Nat) (s : State) : (syncP2cOp v s).ovf = s.ovf := rfl
@[simp] theorem syncP2cOp_evalPending (v : Nat) (s : State) : (syncP2cOp v s).evalPending = s.evalPending := rfl
@[simp] theorem syncP2cOp_stopReq (v : Nat) (s : State) : (syncP2cOp v s).stopReq = s.stopReq := rfl
@[simp] theorem syncP2cOp_Q (v : Nat) (s : State) : (syncP2cOp v s).Q = s.Q := rfl
@[simp] theorem syncP2cOp_wrCnt (v : Nat) (s : State) : (syncP2cOp v s).wrCnt = s.wrCnt := rfl
@[simp] theorem syncP2cOp_rdSeenP (v : Nat) (s : State) : (syncP2cOp v s).rdSeenP = s.rdSeenP := rfl
@[simp] theorem syncP2cOp_rdCnt (v : Nat) (s : State) : (syncP2cOp v s).rdCnt = s.rdCnt := rfl
@[simp] theorem syncP2cOp_wrSeenC (v : Nat) (s : State) : (syncP2cOp v s).wrSeenC = v := rfl
@[simp] theorem syncP2cOp_rdOff (v : Nat) (s : State) : (syncP2cOp v s).rdOff = s.rdOff := rfl
@[simp] theorem syncP2cOp_cntFrames (v : Nat) (s : State) : (syncP2cOp v s).cntFrames = s.cntFrames := rfl
@[simp] theorem syncP2cOp_cntZlen (v : Nat) (s : State) : (syncP2cOp v s).cntZlen = s.cntZlen := rfl
@[simp] theorem syncP2cOp_cntCsum (v : Nat) (s : State) : (syncP2cOp v s).cntCsum = s.cntCsum := rfl
@[simp] theorem syncP2cOp_cntOvf (v : Nat) (s : State) : (syncP2cOp v s).cntOvf = s.cntOvf := rfl
@[simp] theorem syncP2cOp_stkZlen (v : Nat) (s : State) : (syncP2cOp v s).stkZlen = s.stkZlen := rfl
@[simp] theorem syncP2cOp_stkCsum (v : Nat) (s : State) : (syncP2cOp v s).stkCsum = s.stkCsum := rfl
@[simp] theorem syncP2cOp_stkOvf (v : Nat) (s : State) : (syncP2cOp v s).stkOvf = s.stkOvf := rfl
@[simp] theorem syncP2cOp_stkXport (v : Nat) (s : State) : (syncP2cOp v s).stkXport = s.stkXport := rfl
@[simp] theorem syncP2cOp_errOut (v : Nat) (s : State) : (syncP2cOp v s).errOut = s.errOut := rfl
@[simp] theorem syncP2cOp_regRdata (v : Nat) (s : State) : (syncP2cOp v s).regRdata = s.regRdata := rfl
@[simp] theorem syncP2cOp_pending (v : Nat) (s : State) : (syncP2cOp v s).pending = s.pending := rfl
@[simp] theorem syncP2cOp_drawn (v : Nat) (s : State) : (syncP2cOp v s).drawn = s.drawn := rfl

@[simp] theorem syncC2pOp_build (v : Nat) (s : State) : (syncC2pOp v s).build = s.build := rfl
@[simp] theorem syncC2pOp_mode (v : Nat) (s : State) : (syncC2pOp v s).mode = s.mode := rfl
@[simp] theorem syncC2pOp_W (v : Nat) (s : State) : (syncC2pOp v s).W = s.W := rfl
@[simp] theorem syncC2pOp_inRead (v : Nat) (s : State) : (syncC2pOp v s).inRead = s.inRead := rfl
@[simp] theorem syncC2pOp_scanning (v : Nat) (s : State) : (syncC2pOp v s).scanning = s.scanning := rfl
@[simp] theorem syncC2pOp_ovf (v : Nat) (s : State) : (syncC2pOp v s).ovf = s.ovf := rfl
@[simp] theorem syncC2pOp_evalPending (v : Nat) (s : State) : (syncC2pOp v s).evalPending = s.evalPending := rfl
@[simp] theorem syncC2pOp_stopReq (v : Nat) (s : State) : (syncC2pOp v s).stopReq = s.stopReq := rfl
@[simp] theorem syncC2pOp_Q (v : Nat) (s : State) : (syncC2pOp v s).Q = s.Q := rfl
@[simp] theorem syncC2pOp_wrCnt (v : Nat) (s : State) : (syncC2pOp v s).wrCnt = s.wrCnt := rfl
@[simp] theorem syncC2pOp_rdSeenP (v : Nat) (s : State) : (syncC2pOp v s).rdSeenP = v := rfl
@[simp] theorem syncC2pOp_rdCnt (v : Nat) (s : State) : (syncC2pOp v s).rdCnt = s.rdCnt := rfl
@[simp] theorem syncC2pOp_wrSeenC (v : Nat) (s : State) : (syncC2pOp v s).wrSeenC = s.wrSeenC := rfl
@[simp] theorem syncC2pOp_rdOff (v : Nat) (s : State) : (syncC2pOp v s).rdOff = s.rdOff := rfl
@[simp] theorem syncC2pOp_cntFrames (v : Nat) (s : State) : (syncC2pOp v s).cntFrames = s.cntFrames := rfl
@[simp] theorem syncC2pOp_cntZlen (v : Nat) (s : State) : (syncC2pOp v s).cntZlen = s.cntZlen := rfl
@[simp] theorem syncC2pOp_cntCsum (v : Nat) (s : State) : (syncC2pOp v s).cntCsum = s.cntCsum := rfl
@[simp] theorem syncC2pOp_cntOvf (v : Nat) (s : State) : (syncC2pOp v s).cntOvf = s.cntOvf := rfl
@[simp] theorem syncC2pOp_stkZlen (v : Nat) (s : State) : (syncC2pOp v s).stkZlen = s.stkZlen := rfl
@[simp] theorem syncC2pOp_stkCsum (v : Nat) (s : State) : (syncC2pOp v s).stkCsum = s.stkCsum := rfl
@[simp] theorem syncC2pOp_stkOvf (v : Nat) (s : State) : (syncC2pOp v s).stkOvf = s.stkOvf := rfl
@[simp] theorem syncC2pOp_stkXport (v : Nat) (s : State) : (syncC2pOp v s).stkXport = s.stkXport := rfl
@[simp] theorem syncC2pOp_errOut (v : Nat) (s : State) : (syncC2pOp v s).errOut = s.errOut := rfl
@[simp] theorem syncC2pOp_regRdata (v : Nat) (s : State) : (syncC2pOp v s).regRdata = s.regRdata := rfl
@[simp] theorem syncC2pOp_pending (v : Nat) (s : State) : (syncC2pOp v s).pending = s.pending := rfl
@[simp] theorem syncC2pOp_drawn (v : Nat) (s : State) : (syncC2pOp v s).drawn = s.drawn := rfl

@[simp] theorem placeTick_build (t : Tick) (s : State) : (placeTick t s).build = s.build := rfl
@[simp] theorem placeTick_mode (t : Tick) (s : State) : (placeTick t s).mode = s.mode := rfl
@[simp] theorem placeTick_W (t : Tick) (s : State) : (placeTick t s).W = s.W := rfl
@[simp] theorem placeTick_inRead (t : Tick) (s : State) : (placeTick t s).inRead = s.inRead := rfl
@[simp] theorem placeTick_scanning (t : Tick) (s : State) : (placeTick t s).scanning = s.scanning := rfl
@[simp] theorem placeTick_ovf (t : Tick) (s : State) : (placeTick t s).ovf = s.ovf := rfl
@[simp] theorem placeTick_evalPending (t : Tick) (s : State) : (placeTick t s).evalPending = s.evalPending := rfl
@[simp] theorem placeTick_stopReq (t : Tick) (s : State) : (placeTick t s).stopReq = s.stopReq := rfl
@[simp] theorem placeTick_Q (t : Tick) (s : State) : (placeTick t s).Q = s.Q := rfl
@[simp] theorem placeTick_wrCnt (t : Tick) (s : State) : (placeTick t s).wrCnt = s.wrCnt := rfl
@[simp] theorem placeTick_rdSeenP (t : Tick) (s : State) : (placeTick t s).rdSeenP = s.rdSeenP := rfl
@[simp] theorem placeTick_rdCnt (t : Tick) (s : State) : (placeTick t s).rdCnt = s.rdCnt := rfl
@[simp] theorem placeTick_wrSeenC (t : Tick) (s : State) : (placeTick t s).wrSeenC = s.wrSeenC := rfl
@[simp] theorem placeTick_rdOff (t : Tick) (s : State) : (placeTick t s).rdOff = s.rdOff := rfl
@[simp] theorem placeTick_cntFrames (t : Tick) (s : State) : (placeTick t s).cntFrames = s.cntFrames := rfl
@[simp] theorem placeTick_cntZlen (t : Tick) (s : State) : (placeTick t s).cntZlen = s.cntZlen := rfl
@[simp] theorem placeTick_cntCsum (t : Tick) (s : State) : (placeTick t s).cntCsum = s.cntCsum := rfl
@[simp] theorem placeTick_cntOvf (t : Tick) (s : State) : (placeTick t s).cntOvf = s.cntOvf := rfl
@[simp] theorem placeTick_stkZlen (t : Tick) (s : State) : (placeTick t s).stkZlen = s.stkZlen := rfl
@[simp] theorem placeTick_stkCsum (t : Tick) (s : State) : (placeTick t s).stkCsum = s.stkCsum := rfl
@[simp] theorem placeTick_stkOvf (t : Tick) (s : State) : (placeTick t s).stkOvf = s.stkOvf := rfl
@[simp] theorem placeTick_stkXport (t : Tick) (s : State) : (placeTick t s).stkXport = s.stkXport := rfl
@[simp] theorem placeTick_errOut (t : Tick) (s : State) : (placeTick t s).errOut = s.errOut := rfl
@[simp] theorem placeTick_regRdata (t : Tick) (s : State) : (placeTick t s).regRdata = s.regRdata := rfl
@[simp] theorem placeTick_pending (t : Tick) (s : State) : (placeTick t s).pending = t :: s.pending := rfl
@[simp] theorem placeTick_drawn (t : Tick) (s : State) : (placeTick t s).drawn = s.drawn := rfl

@[simp] theorem resetOp_build (s : State) : (resetOp s).build = s.build := rfl
@[simp] theorem resetOp_mode (s : State) : (resetOp s).mode = .stopped := rfl
@[simp] theorem resetOp_W (s : State) : (resetOp s).W = [] := rfl
@[simp] theorem resetOp_inRead (s : State) : (resetOp s).inRead = false := rfl
@[simp] theorem resetOp_scanning (s : State) : (resetOp s).scanning = false := rfl
@[simp] theorem resetOp_ovf (s : State) : (resetOp s).ovf = false := rfl
@[simp] theorem resetOp_evalPending (s : State) : (resetOp s).evalPending = false := rfl
@[simp] theorem resetOp_stopReq (s : State) : (resetOp s).stopReq = false := rfl
@[simp] theorem resetOp_Q (s : State) : (resetOp s).Q = [] := rfl
@[simp] theorem resetOp_wrCnt (s : State) : (resetOp s).wrCnt = 0 := rfl
@[simp] theorem resetOp_rdSeenP (s : State) : (resetOp s).rdSeenP = 0 := rfl
@[simp] theorem resetOp_rdCnt (s : State) : (resetOp s).rdCnt = 0 := rfl
@[simp] theorem resetOp_wrSeenC (s : State) : (resetOp s).wrSeenC = 0 := rfl
@[simp] theorem resetOp_rdOff (s : State) : (resetOp s).rdOff = 0 := rfl
@[simp] theorem resetOp_cntFrames (s : State) : (resetOp s).cntFrames = 0 := rfl
@[simp] theorem resetOp_cntZlen (s : State) : (resetOp s).cntZlen = 0 := rfl
@[simp] theorem resetOp_cntCsum (s : State) : (resetOp s).cntCsum = 0 := rfl
@[simp] theorem resetOp_cntOvf (s : State) : (resetOp s).cntOvf = 0 := rfl
@[simp] theorem resetOp_stkZlen (s : State) : (resetOp s).stkZlen = false := rfl
@[simp] theorem resetOp_stkCsum (s : State) : (resetOp s).stkCsum = false := rfl
@[simp] theorem resetOp_stkOvf (s : State) : (resetOp s).stkOvf = false := rfl
@[simp] theorem resetOp_stkXport (s : State) : (resetOp s).stkXport = false := rfl
@[simp] theorem resetOp_errOut (s : State) : (resetOp s).errOut = none := rfl
@[simp] theorem resetOp_regRdata (s : State) : (resetOp s).regRdata = 0 := rfl
@[simp] theorem resetOp_pending (s : State) : (resetOp s).pending = s.pending := rfl
@[simp] theorem resetOp_drawn (s : State) : (resetOp s).drawn = s.drawn := rfl

end Sys2Proof.Machine
end

