-- ==== Sys2Proof/Laws/Ops.lean ====
section
/-! SUPPORT. The updates that choose between cases, field by field: what each of them leaves unchanged; and what each can do, said once. -/

namespace Sys2Proof.Machine

open Sys2Proof

@[simp] theorem absorb_build (d : Byte) (s : State) : (absorb d s).build = s.build := by
  unfold absorb; repeat' split
  all_goals rfl
@[simp] theorem absorb_mode (d : Byte) (s : State) : (absorb d s).mode = s.mode := by
  unfold absorb; repeat' split
  all_goals rfl
@[simp] theorem absorb_inRead (d : Byte) (s : State) : (absorb d s).inRead = s.inRead := by
  unfold absorb; repeat' split
  all_goals rfl
@[simp] theorem absorb_evalPending (d : Byte) (s : State) : (absorb d s).evalPending = s.evalPending := by
  unfold absorb; repeat' split
  all_goals rfl
@[simp] theorem absorb_stopReq (d : Byte) (s : State) : (absorb d s).stopReq = s.stopReq := by
  unfold absorb; repeat' split
  all_goals rfl
@[simp] theorem absorb_Q (d : Byte) (s : State) : (absorb d s).Q = s.Q := by
  unfold absorb; repeat' split
  all_goals rfl
@[simp] theorem absorb_wrCnt (d : Byte) (s : State) : (absorb d s).wrCnt = s.wrCnt := by
  unfold absorb; repeat' split
  all_goals rfl
@[simp] theorem absorb_rdSeenP (d : Byte) (s : State) : (absorb d s).rdSeenP = s.rdSeenP := by
  unfold absorb; repeat' split
  all_goals rfl
@[simp] theorem absorb_rdCnt (d : Byte) (s : State) : (absorb d s).rdCnt = s.rdCnt := by
  unfold absorb; repeat' split
  all_goals rfl
@[simp] theorem absorb_wrSeenC (d : Byte) (s : State) : (absorb d s).wrSeenC = s.wrSeenC := by
  unfold absorb; repeat' split
  all_goals rfl
@[simp] theorem absorb_rdOff (d : Byte) (s : State) : (absorb d s).rdOff = s.rdOff := by
  unfold absorb; repeat' split
  all_goals rfl
@[simp] theorem absorb_cntFrames (d : Byte) (s : State) : (absorb d s).cntFrames = s.cntFrames := by
  unfold absorb; repeat' split
  all_goals rfl
@[simp] theorem absorb_cntZlen (d : Byte) (s : State) : (absorb d s).cntZlen = s.cntZlen := by
  unfold absorb; repeat' split
  all_goals rfl
@[simp] theorem absorb_cntCsum (d : Byte) (s : State) : (absorb d s).cntCsum = s.cntCsum := by
  unfold absorb; repeat' split
  all_goals rfl
@[simp] theorem absorb_cntOvf (d : Byte) (s : State) : (absorb d s).cntOvf = s.cntOvf := by
  unfold absorb; repeat' split
  all_goals rfl
@[simp] theorem absorb_stkZlen (d : Byte) (s : State) : (absorb d s).stkZlen = s.stkZlen := by
  unfold absorb; repeat' split
  all_goals rfl
@[simp] theorem absorb_stkCsum (d : Byte) (s : State) : (absorb d s).stkCsum = s.stkCsum := by
  unfold absorb; repeat' split
  all_goals rfl
@[simp] theorem absorb_stkOvf (d : Byte) (s : State) : (absorb d s).stkOvf = s.stkOvf := by
  unfold absorb; repeat' split
  all_goals rfl
@[simp] theorem absorb_stkXport (d : Byte) (s : State) : (absorb d s).stkXport = s.stkXport := by
  unfold absorb; repeat' split
  all_goals rfl
@[simp] theorem absorb_errOut (d : Byte) (s : State) : (absorb d s).errOut = s.errOut := by
  unfold absorb; repeat' split
  all_goals rfl
@[simp] theorem absorb_regRdata (d : Byte) (s : State) : (absorb d s).regRdata = s.regRdata := by
  unfold absorb; repeat' split
  all_goals rfl
@[simp] theorem absorb_pending (d : Byte) (s : State) : (absorb d s).pending = s.pending := by
  unfold absorb; repeat' split
  all_goals rfl
@[simp] theorem absorb_drawn (d : Byte) (s : State) : (absorb d s).drawn = s.drawn := by
  unfold absorb; repeat' split
  all_goals rfl

@[simp] theorem raiseErr_build (c : ErrKind) (s : State) : (raiseErr c s).build = s.build := by
  cases c <;> rfl
@[simp] theorem raiseErr_mode (c : ErrKind) (s : State) : (raiseErr c s).mode = s.mode := by
  cases c <;> rfl
@[simp] theorem raiseErr_W (c : ErrKind) (s : State) : (raiseErr c s).W = s.W := by
  cases c <;> rfl
@[simp] theorem raiseErr_inRead (c : ErrKind) (s : State) : (raiseErr c s).inRead = s.inRead := by
  cases c <;> rfl
@[simp] theorem raiseErr_scanning (c : ErrKind) (s : State) : (raiseErr c s).scanning = s.scanning := by
  cases c <;> rfl
@[simp] theorem raiseErr_ovf (c : ErrKind) (s : State) : (raiseErr c s).ovf = s.ovf := by
  cases c <;> rfl
@[simp] theorem raiseErr_evalPending (c : ErrKind) (s : State) : (raiseErr c s).evalPending = s.evalPending := by
  cases c <;> rfl
@[simp] theorem raiseErr_stopReq (c : ErrKind) (s : State) : (raiseErr c s).stopReq = s.stopReq := by
  cases c <;> rfl
@[simp] theorem raiseErr_Q (c : ErrKind) (s : State) : (raiseErr c s).Q = s.Q := by
  cases c <;> rfl
@[simp] theorem raiseErr_wrCnt (c : ErrKind) (s : State) : (raiseErr c s).wrCnt = s.wrCnt := by
  cases c <;> rfl
@[simp] theorem raiseErr_rdSeenP (c : ErrKind) (s : State) : (raiseErr c s).rdSeenP = s.rdSeenP := by
  cases c <;> rfl
@[simp] theorem raiseErr_rdCnt (c : ErrKind) (s : State) : (raiseErr c s).rdCnt = s.rdCnt := by
  cases c <;> rfl
@[simp] theorem raiseErr_wrSeenC (c : ErrKind) (s : State) : (raiseErr c s).wrSeenC = s.wrSeenC := by
  cases c <;> rfl
@[simp] theorem raiseErr_rdOff (c : ErrKind) (s : State) : (raiseErr c s).rdOff = s.rdOff := by
  cases c <;> rfl
@[simp] theorem raiseErr_cntFrames (c : ErrKind) (s : State) : (raiseErr c s).cntFrames = s.cntFrames := by
  cases c <;> rfl
@[simp] theorem raiseErr_regRdata (c : ErrKind) (s : State) : (raiseErr c s).regRdata = s.regRdata := by
  cases c <;> rfl
@[simp] theorem raiseErr_pending (c : ErrKind) (s : State) : (raiseErr c s).pending = s.pending := by
  cases c <;> rfl
@[simp] theorem raiseErr_drawn (c : ErrKind) (s : State) : (raiseErr c s).drawn = s.drawn := by
  cases c <;> rfl

@[simp] theorem raiseErr_errOut (c : ErrKind) (s : State) : (raiseErr c s).errOut = some c := by
  cases c <;> rfl

@[simp] theorem startStop_build (v : Word) (s : State) : (startStop v s).build = s.build := by
  unfold startStop; repeat' split
  all_goals rfl
@[simp] theorem startStop_W (v : Word) (s : State) : (startStop v s).W = s.W := by
  unfold startStop; repeat' split
  all_goals rfl
@[simp] theorem startStop_inRead (v : Word) (s : State) : (startStop v s).inRead = s.inRead := by
  unfold startStop; repeat' split
  all_goals rfl
@[simp] theorem startStop_scanning (v : Word) (s : State) : (startStop v s).scanning = s.scanning := by
  unfold startStop; repeat' split
  all_goals rfl
@[simp] theorem startStop_ovf (v : Word) (s : State) : (startStop v s).ovf = s.ovf := by
  unfold startStop; repeat' split
  all_goals rfl
@[simp] theorem startStop_evalPending (v : Word) (s : State) : (startStop v s).evalPending = s.evalPending := by
  unfold startStop; repeat' split
  all_goals rfl
@[simp] theorem startStop_Q (v : Word) (s : State) : (startStop v s).Q = s.Q := by
  unfold startStop; repeat' split
  all_goals rfl
@[simp] theorem startStop_wrCnt (v : Word) (s : State) : (startStop v s).wrCnt = s.wrCnt := by
  unfold startStop; repeat' split
  all_goals rfl
@[simp] theorem startStop_rdSeenP (v : Word) (s : State) : (startStop v s).rdSeenP = s.rdSeenP := by
  unfold startStop; repeat' split
  all_goals rfl
@[simp] theorem startStop_rdCnt (v : Word) (s : State) : (startStop v s).rdCnt = s.rdCnt := by
  unfold startStop; repeat' split
  all_goals rfl
@[simp] theorem startStop_wrSeenC (v : Word) (s : State) : (startStop v s).wrSeenC = s.wrSeenC := by
  unfold startStop; repeat' split
  all_goals rfl
@[simp] theorem startStop_rdOff (v : Word) (s : State) : (startStop v s).rdOff = s.rdOff := by
  unfold startStop; repeat' split
  all_goals rfl
@[simp] theorem startStop_cntFrames (v : Word) (s : State) : (startStop v s).cntFrames = s.cntFrames := by
  unfold startStop; repeat' split
  all_goals rfl
@[simp] theorem startStop_cntZlen (v : Word) (s : State) : (startStop v s).cntZlen = s.cntZlen := by
  unfold startStop; repeat' split
  all_goals rfl
@[simp] theorem startStop_cntCsum (v : Word) (s : State) : (startStop v s).cntCsum = s.cntCsum := by
  unfold startStop; repeat' split
  all_goals rfl
@[simp] theorem startStop_cntOvf (v : Word) (s : State) : (startStop v s).cntOvf = s.cntOvf := by
  unfold startStop; repeat' split
  all_goals rfl
@[simp] theorem startStop_stkZlen (v : Word) (s : State) : (startStop v s).stkZlen = s.stkZlen := by
  unfold startStop; repeat' split
  all_goals rfl
@[simp] theorem startStop_stkCsum (v : Word) (s : State) : (startStop v s).stkCsum = s.stkCsum := by
  unfold startStop; repeat' split
  all_goals rfl
@[simp] theorem startStop_stkOvf (v : Word) (s : State) : (startStop v s).stkOvf = s.stkOvf := by
  unfold startStop; repeat' split
  all_goals rfl
@[simp] theorem startStop_stkXport (v : Word) (s : State) : (startStop v s).stkXport = s.stkXport := by
  unfold startStop; repeat' split
  all_goals rfl
@[simp] theorem startStop_errOut (v : Word) (s : State) : (startStop v s).errOut = s.errOut := by
  unfold startStop; repeat' split
  all_goals rfl
@[simp] theorem startStop_regRdata (v : Word) (s : State) : (startStop v s).regRdata = s.regRdata := by
  unfold startStop; repeat' split
  all_goals rfl
@[simp] theorem startStop_pending (v : Word) (s : State) : (startStop v s).pending = s.pending := by
  unfold startStop; repeat' split
  all_goals rfl
@[simp] theorem startStop_drawn (v : Word) (s : State) : (startStop v s).drawn = s.drawn := by
  unfold startStop; repeat' split
  all_goals rfl

@[simp] theorem wrCtrlOp_build (v : Word) (s : State) : (wrCtrlOp v s).build = s.build := by
  unfold wrCtrlOp; split <;> simp
@[simp] theorem wrCtrlOp_W (v : Word) (s : State) : (wrCtrlOp v s).W = s.W := by
  unfold wrCtrlOp; split <;> simp
@[simp] theorem wrCtrlOp_inRead (v : Word) (s : State) : (wrCtrlOp v s).inRead = s.inRead := by
  unfold wrCtrlOp; split <;> simp
@[simp] theorem wrCtrlOp_scanning (v : Word) (s : State) : (wrCtrlOp v s).scanning = s.scanning := by
  unfold wrCtrlOp; split <;> simp
@[simp] theorem wrCtrlOp_ovf (v : Word) (s : State) : (wrCtrlOp v s).ovf = s.ovf := by
  unfold wrCtrlOp; split <;> simp
@[simp] theorem wrCtrlOp_evalPending (v : Word) (s : State) : (wrCtrlOp v s).evalPending = s.evalPending := by
  unfold wrCtrlOp; split <;> simp
@[simp] theorem wrCtrlOp_Q (v : Word) (s : State) : (wrCtrlOp v s).Q = s.Q := by
  unfold wrCtrlOp; split <;> simp
@[simp] theorem wrCtrlOp_wrCnt (v : Word) (s : State) : (wrCtrlOp v s).wrCnt = s.wrCnt := by
  unfold wrCtrlOp; split <;> simp
@[simp] theorem wrCtrlOp_rdSeenP (v : Word) (s : State) : (wrCtrlOp v s).rdSeenP = s.rdSeenP := by
  unfold wrCtrlOp; split <;> simp
@[simp] theorem wrCtrlOp_rdCnt (v : Word) (s : State) : (wrCtrlOp v s).rdCnt = s.rdCnt := by
  unfold wrCtrlOp; split <;> simp
@[simp] theorem wrCtrlOp_wrSeenC (v : Word) (s : State) : (wrCtrlOp v s).wrSeenC = s.wrSeenC := by
  unfold wrCtrlOp; split <;> simp
@[simp] theorem wrCtrlOp_rdOff (v : Word) (s : State) : (wrCtrlOp v s).rdOff = s.rdOff := by
  unfold wrCtrlOp; split <;> simp
@[simp] theorem wrCtrlOp_cntFrames (v : Word) (s : State) : (wrCtrlOp v s).cntFrames = s.cntFrames := by
  unfold wrCtrlOp; split <;> simp
@[simp] theorem wrCtrlOp_errOut (v : Word) (s : State) : (wrCtrlOp v s).errOut = s.errOut := by
  unfold wrCtrlOp; split <;> simp
@[simp] theorem wrCtrlOp_regRdata (v : Word) (s : State) : (wrCtrlOp v s).regRdata = s.regRdata := by
  unfold wrCtrlOp; split <;> simp
@[simp] theorem wrCtrlOp_pending (v : Word) (s : State) : (wrCtrlOp v s).pending = s.pending := by
  unfold wrCtrlOp; split <;> simp
@[simp] theorem wrCtrlOp_drawn (v : Word) (s : State) : (wrCtrlOp v s).drawn = s.drawn := by
  unfold wrCtrlOp; split <;> simp

@[simp] theorem inByteOp_build (d : Byte) (s : State) : (inByteOp d s).build = s.build := by
  simp [inByteOp]
@[simp] theorem inByteOp_mode (d : Byte) (s : State) : (inByteOp d s).mode = s.mode := by
  simp [inByteOp]
@[simp] theorem inByteOp_evalPending (d : Byte) (s : State) : (inByteOp d s).evalPending = s.evalPending := by
  simp [inByteOp]
@[simp] theorem inByteOp_stopReq (d : Byte) (s : State) : (inByteOp d s).stopReq = s.stopReq := by
  simp [inByteOp]
@[simp] theorem inByteOp_Q (d : Byte) (s : State) : (inByteOp d s).Q = s.Q := by
  simp [inByteOp]
@[simp] theorem inByteOp_wrCnt (d : Byte) (s : State) : (inByteOp d s).wrCnt = s.wrCnt := by
  simp [inByteOp]
@[simp] theorem inByteOp_rdSeenP (d : Byte) (s : State) : (inByteOp d s).rdSeenP = s.rdSeenP := by
  simp [inByteOp]
@[simp] theorem inByteOp_rdCnt (d : Byte) (s : State) : (inByteOp d s).rdCnt = s.rdCnt := by
  simp [inByteOp]
@[simp] theorem inByteOp_wrSeenC (d : Byte) (s : State) : (inByteOp d s).wrSeenC = s.wrSeenC := by
  simp [inByteOp]
@[simp] theorem inByteOp_rdOff (d : Byte) (s : State) : (inByteOp d s).rdOff = s.rdOff := by
  simp [inByteOp]
@[simp] theorem inByteOp_cntFrames (d : Byte) (s : State) : (inByteOp d s).cntFrames = s.cntFrames := by
  simp [inByteOp]
@[simp] theorem inByteOp_cntZlen (d : Byte) (s : State) : (inByteOp d s).cntZlen = s.cntZlen := by
  simp [inByteOp]
@[simp] theorem inByteOp_cntCsum (d : Byte) (s : State) : (inByteOp d s).cntCsum = s.cntCsum := by
  simp [inByteOp]
@[simp] theorem inByteOp_cntOvf (d : Byte) (s : State) : (inByteOp d s).cntOvf = s.cntOvf := by
  simp [inByteOp]
@[simp] theorem inByteOp_stkZlen (d : Byte) (s : State) : (inByteOp d s).stkZlen = s.stkZlen := by
  simp [inByteOp]
@[simp] theorem inByteOp_stkCsum (d : Byte) (s : State) : (inByteOp d s).stkCsum = s.stkCsum := by
  simp [inByteOp]
@[simp] theorem inByteOp_stkOvf (d : Byte) (s : State) : (inByteOp d s).stkOvf = s.stkOvf := by
  simp [inByteOp]
@[simp] theorem inByteOp_stkXport (d : Byte) (s : State) : (inByteOp d s).stkXport = s.stkXport := by
  simp [inByteOp]
@[simp] theorem inByteOp_errOut (d : Byte) (s : State) : (inByteOp d s).errOut = s.errOut := by
  simp [inByteOp]
@[simp] theorem inByteOp_regRdata (d : Byte) (s : State) : (inByteOp d s).regRdata = s.regRdata := by
  simp [inByteOp]
@[simp] theorem inByteOp_pending (d : Byte) (s : State) : (inByteOp d s).pending = s.pending := by
  simp [inByteOp]
@[simp] theorem inByteOp_drawn (d : Byte) (s : State) : (inByteOp d s).drawn = s.drawn := by
  simp [inByteOp]

@[simp] theorem inLastOp_build (d : Byte) (s : State) : (inLastOp d s).build = s.build := by
  simp [inLastOp]
@[simp] theorem inLastOp_mode (d : Byte) (s : State) : (inLastOp d s).mode = s.mode := by
  simp [inLastOp]
@[simp] theorem inLastOp_stopReq (d : Byte) (s : State) : (inLastOp d s).stopReq = s.stopReq := by
  simp [inLastOp]
@[simp] theorem inLastOp_Q (d : Byte) (s : State) : (inLastOp d s).Q = s.Q := by
  simp [inLastOp]
@[simp] theorem inLastOp_wrCnt (d : Byte) (s : State) : (inLastOp d s).wrCnt = s.wrCnt := by
  simp [inLastOp]
@[simp] theorem inLastOp_rdSeenP (d : Byte) (s : State) : (inLastOp d s).rdSeenP = s.rdSeenP := by
  simp [inLastOp]
@[simp] theorem inLastOp_rdCnt (d : Byte) (s : State) : (inLastOp d s).rdCnt = s.rdCnt := by
  simp [inLastOp]
@[simp] theorem inLastOp_wrSeenC (d : Byte) (s : State) : (inLastOp d s).wrSeenC = s.wrSeenC := by
  simp [inLastOp]
@[simp] theorem inLastOp_rdOff (d : Byte) (s : State) : (inLastOp d s).rdOff = s.rdOff := by
  simp [inLastOp]
@[simp] theorem inLastOp_cntFrames (d : Byte) (s : State) : (inLastOp d s).cntFrames = s.cntFrames := by
  simp [inLastOp]
@[simp] theorem inLastOp_cntZlen (d : Byte) (s : State) : (inLastOp d s).cntZlen = s.cntZlen := by
  simp [inLastOp]
@[simp] theorem inLastOp_cntCsum (d : Byte) (s : State) : (inLastOp d s).cntCsum = s.cntCsum := by
  simp [inLastOp]
@[simp] theorem inLastOp_cntOvf (d : Byte) (s : State) : (inLastOp d s).cntOvf = s.cntOvf := by
  simp [inLastOp]
@[simp] theorem inLastOp_stkZlen (d : Byte) (s : State) : (inLastOp d s).stkZlen = s.stkZlen := by
  simp [inLastOp]
@[simp] theorem inLastOp_stkCsum (d : Byte) (s : State) : (inLastOp d s).stkCsum = s.stkCsum := by
  simp [inLastOp]
@[simp] theorem inLastOp_stkOvf (d : Byte) (s : State) : (inLastOp d s).stkOvf = s.stkOvf := by
  simp [inLastOp]
@[simp] theorem inLastOp_stkXport (d : Byte) (s : State) : (inLastOp d s).stkXport = s.stkXport := by
  simp [inLastOp]
@[simp] theorem inLastOp_errOut (d : Byte) (s : State) : (inLastOp d s).errOut = s.errOut := by
  simp [inLastOp]
@[simp] theorem inLastOp_regRdata (d : Byte) (s : State) : (inLastOp d s).regRdata = s.regRdata := by
  simp [inLastOp]
@[simp] theorem inLastOp_pending (d : Byte) (s : State) : (inLastOp d s).pending = s.pending := by
  simp [inLastOp]
@[simp] theorem inLastOp_drawn (d : Byte) (s : State) : (inLastOp d s).drawn = s.drawn := by
  simp [inLastOp]

@[simp] theorem advance_build (s : State) : (advance s).build = s.build := by
  unfold advance; split <;> rfl
@[simp] theorem advance_mode (s : State) : (advance s).mode = s.mode := by
  unfold advance; split <;> rfl
@[simp] theorem advance_W (s : State) : (advance s).W = s.W := by
  unfold advance; split <;> rfl
@[simp] theorem advance_inRead (s : State) : (advance s).inRead = s.inRead := by
  unfold advance; split <;> rfl
@[simp] theorem advance_scanning (s : State) : (advance s).scanning = s.scanning := by
  unfold advance; split <;> rfl
@[simp] theorem advance_ovf (s : State) : (advance s).ovf = s.ovf := by
  unfold advance; split <;> rfl
@[simp] theorem advance_evalPending (s : State) : (advance s).evalPending = s.evalPending := by
  unfold advance; split <;> rfl
@[simp] theorem advance_stopReq (s : State) : (advance s).stopReq = s.stopReq := by
  unfold advance; split <;> rfl
@[simp] theorem advance_Q (s : State) : (advance s).Q = s.Q := by
  unfold advance; split <;> rfl
@[simp] theorem advance_wrCnt (s : State) : (advance s).wrCnt = s.wrCnt := by
  unfold advance; split <;> rfl
@[simp] theorem advance_rdSeenP (s : State) : (advance s).rdSeenP = s.rdSeenP := by
  unfold advance; split <;> rfl
@[simp] theorem advance_rdCnt (s : State) : (advance s).rdCnt = s.rdCnt := by
  unfold advance; split <;> rfl
@[simp] theorem advance_wrSeenC (s : State) : (advance s).wrSeenC = s.wrSeenC := by
  unfold advance; split <;> rfl
@[simp] theorem advance_rdOff (s : State) : (advance s).rdOff = s.rdOff := by
  unfold advance; split <;> rfl
@[simp] theorem advance_cntFrames (s : State) : (advance s).cntFrames = s.cntFrames := by
  unfold advance; split <;> rfl
@[simp] theorem advance_cntZlen (s : State) : (advance s).cntZlen = s.cntZlen := by
  unfold advance; split <;> rfl
@[simp] theorem advance_cntCsum (s : State) : (advance s).cntCsum = s.cntCsum := by
  unfold advance; split <;> rfl
@[simp] theorem advance_cntOvf (s : State) : (advance s).cntOvf = s.cntOvf := by
  unfold advance; split <;> rfl
@[simp] theorem advance_stkZlen (s : State) : (advance s).stkZlen = s.stkZlen := by
  unfold advance; split <;> rfl
@[simp] theorem advance_stkCsum (s : State) : (advance s).stkCsum = s.stkCsum := by
  unfold advance; split <;> rfl
@[simp] theorem advance_stkOvf (s : State) : (advance s).stkOvf = s.stkOvf := by
  unfold advance; split <;> rfl
@[simp] theorem advance_stkXport (s : State) : (advance s).stkXport = s.stkXport := by
  unfold advance; split <;> rfl
@[simp] theorem advance_errOut (s : State) : (advance s).errOut = s.errOut := by
  unfold advance; split <;> rfl
@[simp] theorem advance_regRdata (s : State) : (advance s).regRdata = s.regRdata := by
  unfold advance; split <;> rfl
@[simp] theorem inByteOp_inRead (d : Byte) (s : State) : (inByteOp d s).inRead = true := rfl
@[simp] theorem inLastOp_inRead (d : Byte) (s : State) : (inLastOp d s).inRead = false := rfl
@[simp] theorem inLastOp_scanning (d : Byte) (s : State) : (inLastOp d s).scanning = false := rfl
@[simp] theorem inLastOp_evalPending (d : Byte) (s : State) : (inLastOp d s).evalPending = true := rfl

/-- STOP and START move `mode` from STOPPED to RUN or leave it (R129). -/
theorem startStop_mode (v : Word) (s : State) :
    (startStop v s).mode = if v.getLsbD 1 = false ∧ v.getLsbD 0 = true ∧ s.mode = .stopped then .run else s.mode := by
  unfold startStop
  cases v.getLsbD 1 <;> cases v.getLsbD 0 <;> cases h : s.mode <;> simp [h]
/-- STOP sets `stopReq` and START clears it, in RUN only (R129). -/
theorem startStop_stopReq (v : Word) (s : State) :
    (startStop v s).stopReq = if s.mode = .run then (v.getLsbD 1 || (!v.getLsbD 0 && s.stopReq)) else s.stopReq := by
  unfold startStop
  cases v.getLsbD 1 <;> cases v.getLsbD 0 <;> cases h : s.mode <;> simp
/-- WR_CTRL on `mode` (R129). -/
theorem wrCtrlOp_mode (v : Word) (s : State) :
    (wrCtrlOp v s).mode = if v.getLsbD 1 = false ∧ v.getLsbD 0 = true ∧ s.mode = .stopped then .run else s.mode := by
  unfold wrCtrlOp; rw [startStop_mode]; cases v.getLsbD 2 <;> rfl
/-- WR_CTRL on `stopReq` (R129). -/
theorem wrCtrlOp_stopReq (v : Word) (s : State) :
    (wrCtrlOp v s).stopReq = if s.mode = .run then (v.getLsbD 1 || (!v.getLsbD 0 && s.stopReq)) else s.stopReq := by
  unfold wrCtrlOp; rw [startStop_stopReq]; cases v.getLsbD 2 <;> rfl

/-- What `absorb` can do (R98 to R100): drop the byte while scanning, find the sentinel, drop it for lack of room, or append it. -/
theorem absorb_cases (d : Byte) (s : State) :
    (scans s = true ∧ d ≠ Config.sentinel ∧ absorb d s = { s with scanning := true }) ∨
    (scans s = true ∧ d = Config.sentinel ∧ absorb d s = { s with scanning := false, W := [Config.sentinel] }) ∨
    (scans s = false ∧ (s.ovf = true ∨ s.W.length = s.build.bufBytes) ∧
      absorb d s = { s with scanning := false, ovf := true }) ∨
    (scans s = false ∧ s.ovf = false ∧ s.W.length ≠ s.build.bufBytes ∧
      absorb d s = { s with scanning := false, W := s.W ++ [d] }) := by
  by_cases h : scans s = true
  · by_cases hd : d = Config.sentinel
    · exact .inr (.inl ⟨h, hd, by simp [absorb, h, hd]⟩)
    · exact .inl ⟨h, hd, by simp [absorb, h, hd]⟩
  · rw [Bool.not_eq_true] at h
    by_cases hf : s.ovf = true ∨ s.W.length = s.build.bufBytes
    · exact .inr (.inr (.inl ⟨h, hf, by simp [absorb, h, hf]⟩))
    · have hf' := not_or.mp hf
      exact .inr (.inr (.inr ⟨h, by simpa using hf'.1, hf'.2, by simp [absorb, h, hf'.1, hf'.2]⟩))

/-- Scanning is decided at the first beat of a read and kept until the sentinel (R98). -/
theorem scans_iff (s : State) :
    scans s = true ↔ (s.inRead = false ∧ s.W = []) ∨ (s.inRead = true ∧ s.scanning = true) := by
  simp [scans]

/-- A gated operation either runs, its condition holding, or changes nothing. -/
theorem gated_cases (b : Bool) (op : State → Result) (s : State) :
    (b = true ∧ gated b op s = op s) ∨ (b = false ∧ gated b op s = .next s) := by
  cases b <;> simp [gated]

@[simp] theorem gated_true (op : State → Result) (s : State) : gated true op s = op s := rfl
@[simp] theorem gated_false (op : State → Result) (s : State) : gated false op s = .next s := rfl

@[simp] theorem andThen_next (s : State) (f : State → Result) : andThen (.next s) f = f s := rfl
@[simp] theorem andThen_fault (e : Fault) (f : State → Result) : andThen (.fault e) f = .fault e := rfl
@[simp] theorem andThen_refused (e : Refusal) (f : State → Result) : andThen (.refused e) f = .refused e := rfl

/-- A sequence gives a next state exactly when both parts do. -/
theorem andThen_eq_next {r : Result} {f : State → Result} {t : State} :
    andThen r f = .next t ↔ ∃ s, r = .next s ∧ f s = .next t := by
  cases r <;> simp

/-- What an output beat can do (R69, R116): it is transferred, it is not the offered one, or the head byte does not exist. -/
theorem outBeat_cases (w : BitVec 9) (op : State → State) (s : State) :
    (outValid s = true ∧ outWord s = some w ∧ outBeat w op s = .next (op s)) ∨
    ((outValid s = false ∨ ∃ o, outWord s = some o ∧ o ≠ w) ∧ outBeat w op s = .next s) ∨
    (outValid s = true ∧ outWord s = none ∧ outBeat w op s = .fault .headByteMissing) := by
  cases hv : outValid s <;> cases hw : outWord s
  · simp [outBeat, hv]
  · simp [outBeat, hv]
  · simp [outBeat, hv, hw]
  · rename_i o
    by_cases h : o = w <;> simp [outBeat, hv, hw, h]

/-- `in_ready` spelled out (R97). -/
theorem inReady_iff (s : State) :
    inReady s = true ↔ s.mode = .run ∧ s.evalPending = false ∧ (s.stopReq = false ∨ s.inRead = true) := by
  cases h1 : s.stopReq <;> cases h2 : s.inRead <;> simp [inReady, h1, h2]

/-- `out_valid` spelled out (R116). -/
theorem outValid_iff (s : State) : outValid s = true ↔ s.rdCnt < s.wrSeenC := by
  simp [outValid, cCount]

/-- The queue's room as the producer sees it (R103). -/
theorem hasRoom_iff (s : State) : hasRoom s = true ↔ (s.wrCnt : Int) - s.rdSeenP < s.build.qFrames := by
  unfold hasRoom pCount
  exact decide_eq_true_iff

/-- STOP_DONE's condition (R106). -/
theorem stopEnabled_iff (s : State) :
    stopEnabled s = true ↔ s.mode = .run ∧ s.stopReq = true ∧ s.inRead = false ∧ s.evalPending = false := by
  simp [stopEnabled, and_assoc]

theorem p2cEnabled_iff (v : Nat) (s : State) : p2cEnabled v s = true ↔ s.wrSeenC < v ∧ v ≤ s.wrCnt := by
  simp [p2cEnabled]

theorem c2pEnabled_iff (v : Nat) (s : State) : c2pEnabled v s = true ↔ s.rdSeenP < v ∧ v ≤ s.rdCnt := by
  simp [c2pEnabled]

/-- An operation that is ready is performed (R67, R69, R103, R106, R119, R120). -/
theorem exec_of_ready (i : Instr) (s : State) (h : ready i s = true) : exec i s = perform i s := by
  cases i <;> simp only [ready, Bool.and_eq_true, decide_eq_true_eq] at h <;>
    first
      | rfl
      | simp [exec, perform, execOutByte, execOutLast, outBeat, h.1, h.2]
      | simp [exec, perform, execInByte, execInLast, execInErr, execEval, execStopDone, execSyncP2c, execSyncC2p, h]

/-- An operation that is not ready changes nothing, unless the byte it would take does not exist. -/
theorem exec_of_not_ready (i : Instr) (s : State) (h : ready i s = false) :
    exec i s = .next s ∨ (outValid s = true ∧ outWord s = none ∧ exec i s = .fault .headByteMissing) := by
  cases i
  case outByte d =>
    rcases outBeat_cases (outWordOf false d) outByteOp s with ⟨h1, h2, _⟩ | ⟨_, h'⟩ | ⟨h1, h2, h'⟩
    · simp [ready, h1, h2] at h
    · exact .inl h'
    · exact .inr ⟨h1, h2, h'⟩
  case outLast d =>
    rcases outBeat_cases (outWordOf true d) outLastOp s with ⟨h1, h2, _⟩ | ⟨_, h'⟩ | ⟨h1, h2, h'⟩
    · simp [ready, h1, h2] at h
    · exact .inl h'
    · exact .inr ⟨h1, h2, h'⟩
  all_goals
    first
      | cases h
      | (simp only [ready] at h
         simp [exec, execInByte, execInLast, execInErr, execEval, execStopDone, execSyncP2c, execSyncC2p, h])

end Sys2Proof.Machine
end

