-- ==== Sys2Proof/Laws/Bits.lean ====
section
/-! SUPPORT. The bits of a port word: the flag on top and the low eight bits (R68 to R70), and what a header decodes to (R72). -/

namespace Sys2Proof.Machine

open Sys2Proof

/-- The bit above an eight-bit field. -/
theorem append_top (a : BitVec 1) (d : Byte) : (a ++ d).getLsbD 8 = a.getLsbD 0 := by
  rw [BitVec.getLsbD_append]; simp

/-- The eight-bit field below a bit. -/
theorem append_low (a : BitVec 1) (d : Byte) : (a ++ d).extractLsb' 0 8 = d := by
  apply BitVec.eq_of_getLsbD_eq
  intro i hi
  rw [BitVec.getLsbD_extractLsb', BitVec.getLsbD_append]
  simp [hi]

/-- A nine-bit word is its top bit and its low eight bits. -/
theorem top_append_low (w : BitVec 9) : BitVec.ofBool (w.getLsbD 8) ++ w.extractLsb' 0 8 = w := by
  apply BitVec.eq_of_getLsbD_eq
  intro i hi
  rw [BitVec.getLsbD_append]
  by_cases h : i < 8
  · simp only [h, ↓reduceIte, BitVec.getLsbD_extractLsb', decide_true, Bool.true_and, Nat.zero_add]
  · have : i = 8 := by omega
    subst this
    simp

@[simp] theorem regHeader_top (we : Bool) (addr : Byte) : (regHeader we addr).getLsbD 8 = we := by
  rw [regHeader, append_top]; simp

@[simp] theorem regHeader_low (we : Bool) (addr : Byte) : (regHeader we addr).extractLsb' 0 8 = addr := append_low _ _

/-- A read header decodes by its address (R72). -/
theorem decodeReg_read (addr : Byte) (v : Word) : decodeReg (regHeader false addr) v = decodeRead addr := by
  simp only [decodeReg, regHeader_top, regHeader_low, Bool.false_eq_true, if_false]

/-- A write header is WR_CTRL at 0x00 and WR_IGNORED elsewhere (R72). -/
theorem decodeReg_write (addr : Byte) (v : Word) :
    decodeReg (regHeader true addr) v = if addr = 0 then .wrCtrl v else .wrIgnored addr v := by
  simp only [decodeReg, regHeader_top, regHeader_low, if_true]

/-- Two output words are equal exactly when both parts are (R69). -/
theorem outWordOf_inj (a b : Bool) (d e : Byte) : outWordOf a d = outWordOf b e ↔ a = b ∧ d = e := by
  constructor
  · intro h
    have h1 : (outWordOf a d).getLsbD 8 = (outWordOf b e).getLsbD 8 := by rw [h]
    have h2 : (outWordOf a d).extractLsb' 0 8 = (outWordOf b e).extractLsb' 0 8 := by rw [h]
    rw [outWordOf, outWordOf, append_top, append_top] at h1
    rw [outWordOf, outWordOf, append_low, append_low] at h2
    exact ⟨by simpa using h1, h2⟩
  · rintro ⟨rfl, rfl⟩; rfl

/-- The word offered is an OUT_LAST word for the last byte of the head frame and an OUT_BYTE word before (R69, R116). -/
theorem decodeOut_outWordOf (last : Bool) (d : Byte) :
    decodeOut (outWordOf last d) = if last then .outLast d else .outByte d := by
  have h1 : (outWordOf last d).getLsbD 8 = last := by rw [outWordOf, append_top]; simp
  have h2 : (outWordOf last d).extractLsb' 0 8 = d := append_low _ _
  simp only [decodeOut, h1, h2]

/-- The three operations an input word can select (R68). -/
theorem decodeIn_cases (w : BitVec 10) :
    (w.getLsbD 9 = true ∧ decodeIn w = .inErr (w.extractLsb' 0 9)) ∨
    (w.getLsbD 9 = false ∧ w.getLsbD 8 = true ∧ decodeIn w = .inLast (w.extractLsb' 0 8)) ∨
    (w.getLsbD 9 = false ∧ w.getLsbD 8 = false ∧ decodeIn w = .inByte (w.extractLsb' 0 8)) := by
  unfold decodeIn
  cases w.getLsbD 9 <;> cases w.getLsbD 8 <;> simp

theorem decodeIn_byte (d : Byte) : decodeIn (0b00#2 ++ d) = .inByte d := by
  have h9 : (0b00#2 ++ d).getLsbD 9 = false := by rw [BitVec.getLsbD_append]; simp
  have h8 : (0b00#2 ++ d).getLsbD 8 = false := by rw [BitVec.getLsbD_append]; simp
  have h : (0b00#2 ++ d).extractLsb' 0 8 = d := by
    apply BitVec.eq_of_getLsbD_eq
    intro i hi
    rw [BitVec.getLsbD_extractLsb', BitVec.getLsbD_append]
    simp [hi]
  simp only [decodeIn, h9, h8, h, Bool.false_eq_true, if_false]

theorem decodeIn_last (d : Byte) : decodeIn (0b01#2 ++ d) = .inLast d := by
  have h9 : (0b01#2 ++ d).getLsbD 9 = false := by rw [BitVec.getLsbD_append]; rfl
  have h8 : (0b01#2 ++ d).getLsbD 8 = true := by rw [BitVec.getLsbD_append]; rfl
  have h : (0b01#2 ++ d).extractLsb' 0 8 = d := by
    apply BitVec.eq_of_getLsbD_eq
    intro i hi
    rw [BitVec.getLsbD_extractLsb', BitVec.getLsbD_append]
    simp [hi]
  simp only [decodeIn, h9, h8, h, Bool.false_eq_true, if_false, if_true]

theorem decodeIn_err (x : BitVec 9) : decodeIn (0b1#1 ++ x) = .inErr x := by
  have h9 : (0b1#1 ++ x).getLsbD 9 = true := by rw [BitVec.getLsbD_append]; rfl
  have h : (0b1#1 ++ x).extractLsb' 0 9 = x := by
    apply BitVec.eq_of_getLsbD_eq
    intro i hi
    rw [BitVec.getLsbD_extractLsb', BitVec.getLsbD_append]
    simp [hi]
  simp only [decodeIn, h9, h, if_true]

end Sys2Proof.Machine
end

