-- ==== Sys2Proof/Laws/Frame.lean ====
section
/-! SUPPORT. The frame functions on the lists they are defined on, and EVAL's outcome in terms of the working frame. -/

namespace Sys2Proof.Machine

open Sys2Proof

/-- `u8` of a natural is zero exactly when 256 divides it (R9). -/
theorem u8_natCast_eq_zero (n : Nat) : u8 (n : Int) = 0 ↔ n % 256 = 0 := by
  rw [u8, BitVec.ofInt_natCast, ← BitVec.toNat_inj, BitVec.toNat_ofNat]
  simp

/-- The 8-bit sum is zero exactly when the exact sum is a multiple of 256 (R65, R86). -/
theorem sum8_eq_zero_iff (xs : List Byte) : sum8 xs = 0 ↔ (xs.map BitVec.toNat).sum % 256 = 0 := by
  rw [sum8, u8_natCast_eq_zero, sumBytes]

@[simp] theorem sumBytes_nil : sumBytes [] = 0 := rfl

@[simp] theorem sumBytes_append (xs ys : List Byte) : sumBytes (xs ++ ys) = sumBytes xs + sumBytes ys := by
  simp [sumBytes]

@[simp] theorem sumBytes_singleton (b : Byte) : sumBytes [b] = b.toNat := by
  simp [sumBytes]

@[simp] theorem packetLength_cons (a len : Byte) (rest : List Byte) :
    packetLength (a :: len :: rest) = some (len.toNat + 3) := rfl

/-- Where the packet length is defined, it is the second byte plus 3 (R83). -/
theorem packetLength_eq (xs : List Byte) (h : 2 ≤ xs.length) : packetLength xs = some ((xs.getD 1 0).toNat + 3) := by
  match xs, h with
  | _ :: _ :: _, _ => rfl

/-- Before the length byte there is no packet length (R83). -/
theorem packetLength_none (xs : List Byte) (h : xs.length < 2) : packetLength xs = none := by
  match xs, h with
  | [], _ => rfl
  | [_], _ => rfl

theorem isLengthByteRead_iff (xs : List Byte) : isLengthByteRead xs = true ↔ 2 ≤ xs.length := by
  simp [isLengthByteRead]

/-- Completeness (R84). -/
theorem isCompletePacket_iff (xs : List Byte) :
    isCompletePacket xs = true ↔ 2 ≤ xs.length ∧ (xs.getD 1 0).toNat + 3 ≤ xs.length := by
  by_cases h : 2 ≤ xs.length
  · simp [isCompletePacket, packetLength_eq xs h, h]
  · simp [isCompletePacket, packetLength_none xs (by omega), h]

/-- A zero length byte (R85). -/
theorem isZeroLength_iff (xs : List Byte) : isZeroLength xs = true ↔ 2 ≤ xs.length ∧ xs.getD 1 0 = 0 := by
  match xs with
  | [] => simp [isZeroLength]
  | [_] => simp [isZeroLength]
  | _ :: _ :: _ => simp [isZeroLength]

/-- The sum of a complete frame (R86). -/
theorem frameSum_of_complete (xs : List Byte) (h : isCompletePacket xs = true) :
    frameSum xs = some (sum8 (xs.take ((xs.getD 1 0).toNat + 3))) := by
  obtain ⟨h2, hL⟩ := (isCompletePacket_iff xs).mp h
  simp [frameSum, packetLength_eq xs h2] at *
  omega

/-- The split of a complete frame (R89). -/
theorem split_of_complete (xs : List Byte) (h : isCompletePacket xs = true) :
    split xs = some (xs.take ((xs.getD 1 0).toNat + 3), keptLeftover (xs.drop ((xs.getD 1 0).toNat + 3))) := by
  obtain ⟨h2, hL⟩ := (isCompletePacket_iff xs).mp h
  simp [split, packetLength_eq xs h2] at *
  omega

/-- A kept leftover is empty or begins with the sentinel, and is no longer than what was left (R89). -/
theorem keptLeftover_cases (rest : List Byte) :
    (keptLeftover rest = rest ∧ rest.head? = some 0x13) ∨ (keptLeftover rest = [] ∧ rest.head? ≠ some 0x13) := by
  unfold keptLeftover Config.sentinel
  split <;> simp_all

/-- EVAL's outcome (R102), in terms of `ovf` and the bytes of the working frame. -/
theorem evalOutcome_eq (s : State) :
    evalOutcome s =
      if s.ovf = true then .ovf
      else if s.W.length < 2 then .nolen
      else if s.W.getD 1 0 = 0 then .zlen
      else if s.W.length < (s.W.getD 1 0).toNat + 3 then .wait
      else if sum8 (s.W.take ((s.W.getD 1 0).toNat + 3)) ≠ 0 then .csum
      else .emit (s.W.take ((s.W.getD 1 0).toNat + 3)) (keptLeftover (s.W.drop ((s.W.getD 1 0).toNat + 3))) := by
  unfold evalOutcome
  by_cases h0 : s.ovf = true
  · simp [h0]
  · rw [if_neg h0, if_neg h0]
    by_cases h1 : s.W.length < 2
    · rw [if_pos h1, if_pos (by simpa [isLengthByteRead] using h1)]
    · rw [if_neg h1, if_neg (by simpa [isLengthByteRead] using h1)]
      by_cases h2 : s.W.getD 1 0 = 0
      · rw [if_pos h2, if_pos ((isZeroLength_iff _).mpr ⟨by omega, h2⟩)]
      · rw [if_neg h2, if_neg (fun h => h2 ((isZeroLength_iff _).mp h).2)]
        by_cases h3 : s.W.length < (s.W.getD 1 0).toNat + 3
        · have hc : isCompletePacket s.W = false := by
            rw [← Bool.not_eq_true, isCompletePacket_iff]; omega
          rw [if_pos h3, if_pos hc]
        · have hc : isCompletePacket s.W = true := (isCompletePacket_iff _).mpr ⟨by omega, by omega⟩
          rw [if_neg h3, if_neg (by simp [hc]), frameSum_of_complete _ hc, split_of_complete _ hc]
          by_cases h4 : sum8 (s.W.take ((s.W.getD 1 0).toNat + 3)) = 0 <;> simp only [h4, ne_eq, not_true_eq_false,
            not_false_eq_true, if_true, if_false]

/-- EVAL never uses a frame function where it is undefined (93 I2, I3). -/
theorem evalOutcome_defined (s : State) : evalOutcome s ≠ .undefinedUse := by
  rw [evalOutcome_eq]
  repeat' split
  all_goals simp

end Sys2Proof.Machine
end

