-- ==== Sys2Proof/Laws/Cycle.lean ====
section
/-! SUPPORT. What a cycle does, part by part, as total functions: the register operation, the beat or EVAL, STOP_DONE; and what a step is. -/

namespace Sys2Proof.Machine

open Sys2Proof

/-- The value a register read of an address returns (R130 to R140). -/
def readValue (addr : Byte) (s : State) : Word :=
  if addr = 0x04 then statusWord s
  else if addr = 0x08 then qcountWord s
  else if addr = 0x0C then wposWord s
  else if addr = 0x10 then zext32 s.cntFrames
  else if addr = 0x14 then zext32 s.cntZlen
  else if addr = 0x18 then zext32 s.cntCsum
  else if addr = 0x1C then zext32 s.cntOvf
  else if addr = 0x20 then paramsWord s.build
  else if addr = 0x24 then idWord
  else 0

/-- An address names a register of R32 or none, and then its read is RD_RSVD (R72). -/
theorem decodeRead_cases (addr : Byte) :
    addr ∈ namedAddresses ∨ (addr ∉ namedAddresses ∧ decodeRead addr = .rdRsvd addr) := by
  by_cases h : addr ∈ namedAddresses
  · exact .inl h
  · refine .inr ⟨h, ?_⟩
    simp only [namedAddresses, List.mem_cons, List.not_mem_nil, or_false, not_or] at h
    obtain ⟨h0, h1, h2, h3, h4, h5, h6, h7, h8, h9⟩ := h
    unfold decodeRead
    rw [if_neg h0, if_neg h1, if_neg h2, if_neg h3, if_neg h4, if_neg h5, if_neg h6, if_neg h7, if_neg h8, if_neg h9]

/-- A read's value is driven on `reg_rdata`, and that is all a read does (R54). -/
theorem perform_decodeRead (addr : Byte) (s : State) : perform (decodeRead addr) s = .next (readReg (readValue addr s) s) := by
  rcases decodeRead_cases addr with h | ⟨h, hd⟩
  · simp only [namedAddresses, List.mem_cons, List.not_mem_nil, or_false] at h
    rcases h with h | h | h | h | h | h | h | h | h | h <;> subst h <;> rfl
  · rw [hd]
    simp only [namedAddresses, List.mem_cons, List.not_mem_nil, or_false, not_or] at h
    obtain ⟨_, h1, h2, h3, h4, h5, h6, h7, h8, h9⟩ := h
    unfold readValue
    rw [if_neg h1, if_neg h2, if_neg h3, if_neg h4, if_neg h5, if_neg h6, if_neg h7, if_neg h8, if_neg h9]
    rfl

/-- Every read completes (R127). -/
theorem exec_decodeRead (addr : Byte) (s : State) : exec (decodeRead addr) s = .next (readReg (readValue addr s) s) := by
  rw [exec_of_ready, perform_decodeRead]
  rcases decodeRead_cases addr with h | ⟨_, hd⟩
  · simp only [namedAddresses, List.mem_cons, List.not_mem_nil, or_false] at h
    rcases h with h | h | h | h | h | h | h | h | h | h <;> subst h <;> rfl
  · rw [hd]; rfl

/-- The effect of the cycle's register operation (step 3 of R107; a read's value is of the cycle's start). -/
def regPart (t : Tick) (s : State) : State :=
  match t.reg with
  | none => startCycle s
  | some r =>
    if r.we then (if r.addr = 0 then wrCtrlOp r.wdata (startCycle s) else startCycle s)
    else readReg (readValue r.addr s) (startCycle s)

/-- The register operation always completes (R127). -/
theorem performAll_regInstr (t : Tick) (s : State) : performAll (regInstr t) (startCycle s) = .next (regPart t s) := by
  unfold regInstr regPart
  cases t.reg with
  | none => rfl
  | some r =>
    obtain ⟨we, addr, v⟩ := r
    cases we
    · simp only [Option.map_some, performAll, decodeReg_read, perform_decodeRead, Bool.false_eq_true, if_false]
      rfl
    · simp only [Option.map_some, performAll, decodeReg_write, if_true]
      by_cases h : addr = 0
      · rw [if_pos h, if_pos h]; rfl
      · rw [if_neg h, if_neg h]; rfl

/-- EVAL's effect as a total function (R102): a frame function is never used where it is undefined. -/
def evalState (s : State) : State :=
  match evalOutcome s with
  | .ovf => evalDone (raiseErr .bufOverflow { clearW s with ovf := false })
  | .nolen => evalDone s
  | .zlen => evalDone (raiseErr .zeroLength (clearW s))
  | .wait => evalDone s
  | .csum => evalDone (raiseErr .checksum (clearW s))
  | .emit F rest => evalDone { enq F s with W := rest, cntFrames := satInc s.cntFrames }
  | .undefinedUse => s

/-- A taken EVAL completes (R102, R151). -/
theorem evalOp_eq (s : State) : evalOp s = .next (evalState s) := by
  have h := evalOutcome_defined s
  unfold evalOp evalState
  cases ho : evalOutcome s <;> first | rfl | exact absurd ho h

/-- The effect of an accepted beat (R99, R100, R105). -/
def beatState (w : BitVec 10) (s : State) : State :=
  match decodeIn w with
  | .inByte d => inByteOp d s
  | .inLast d => inLastOp d s
  | _ => inErrOp s

/-- An offered beat is performed when `in_ready` holds, and otherwise not (R67, R97). -/
theorem exec_decodeIn (w : BitVec 10) (s : State) :
    exec (decodeIn w) s = if inReady s then perform (decodeIn w) s else .next s := by
  rcases decodeIn_cases w with ⟨_, h⟩ | ⟨_, _, h⟩ | ⟨_, _, h⟩ <;> rw [h] <;> rfl

/-- The register port is always ready (R70). -/
theorem ready_decodeReg (h : BitVec 9) (v : Word) (s : State) : ready (decodeReg h v) s = true := by
  unfold decodeReg
  split
  · split <;> rfl
  · rcases decodeRead_cases (h.extractLsb' 0 8) with k | ⟨_, k⟩
    · simp only [namedAddresses, List.mem_cons, List.not_mem_nil, or_false] at k
      rcases k with k | k | k | k | k | k | k | k | k | k <;> rw [k] <;> rfl
    · rw [k]; rfl

/-- The offered word is performed (R69). -/
theorem exec_decodeOut (w : BitVec 9) (s : State) (h3 : outValid s = true) (h4 : outWord s = some w) :
    exec (decodeOut w) s = perform (decodeOut w) s := by
  rw [exec_of_ready]
  unfold decodeOut
  have : outWordOf (w.getLsbD 8) (w.extractLsb' 0 8) = w := top_append_low w
  split
  · rename_i h; rw [h] at this; simp [ready, h3, h4, this]
  · rename_i h; simp only [Bool.not_eq_true] at h; rw [h] at this; simp [ready, h3, h4, this]

/-- An accepted beat completes (R99, R100, R105). -/
theorem perform_decodeIn (w : BitVec 10) (u : State) : perform (decodeIn w) u = .next (beatState w u) := by
  unfold beatState
  rcases decodeIn_cases w with ⟨_, h⟩ | ⟨_, _, h⟩ | ⟨_, _, h⟩ <;> rw [h] <;> rfl

/-- EVAL, if it is chosen and enabled at the cycle's start (R103, R104). -/
def evalPart (t : Tick) (s0 s : State) : State := if t.evalNow && evalEnabled s0 then evalState s else s

/-- The effect of step 4 of R107: the accepted beat, or EVAL, or nothing. -/
def enginePart (t : Tick) (s0 s : State) : State :=
  match t.beat with
  | some w => if inReady s0 then beatState w s else evalPart t s0 s
  | none => evalPart t s0 s

theorem performAll_engineInstr (t : Tick) (s0 s : State) :
    performAll (engineInstr t s0) s = .next (enginePart t s0 s) := by
  unfold engineInstr enginePart evalPart
  cases t.beat with
  | none =>
    simp only [Option.map_none]
    split
    · exact evalOp_eq s
    · rfl
  | some w =>
    simp only [Option.map_some]
    have hr : ready (decodeIn w) s0 = inReady s0 := by
      rcases decodeIn_cases w with ⟨_, h⟩ | ⟨_, _, h⟩ | ⟨_, _, h⟩ <;> rw [h] <;> rfl
    rw [hr]
    split
    · unfold beatState
      rcases decodeIn_cases w with ⟨_, h⟩ | ⟨_, _, h⟩ | ⟨_, _, h⟩ <;> rw [h] <;> rfl
    · split
      · exact evalOp_eq s
      · rfl

/-- STOP_DONE at the end of the cycle (step 5 of R107). -/
def stopPart (s : State) : State := if stopEnabled s then stopDoneOp s else s

theorem execStopDone_eq (s : State) : execStopDone s = .next (stopPart s) := by
  unfold execStopDone stopPart
  cases stopEnabled s <;> rfl

/-- The producer's part of a cycle as a total function (R107). -/
def producerState (t : Tick) (s : State) : State := stopPart (enginePart t s (regPart t s))

/-- The producer's part of a cycle always completes. -/
theorem producerCycle_eq (t : Tick) (s : State) : producerCycle t s = .next (producerState t s) := by
  unfold producerCycle producerState
  rw [performAll_regInstr, andThen_next, performAll_engineInstr, andThen_next, execStopDone_eq]

/-- What the consumer's part of a cycle can do (R116 to R118): nothing, a byte that is not the last, the last byte, or a stop because the head byte
does not exist. -/
theorem consumerCycle_cases (t : Tick) (s0 s : State) :
    ((t.outReady = false ∨ outValid s0 = false) ∧ consumerCycle t s0 s = .next s) ∨
    (t.outReady = true ∧ outValid s0 = true ∧ headLast s0 = false ∧ (∃ d, headByte s0 = some d) ∧
      consumerCycle t s0 s = .next (outByteOp s)) ∨
    (t.outReady = true ∧ outValid s0 = true ∧ headLast s0 = true ∧ (∃ d, headByte s0 = some d) ∧
      consumerCycle t s0 s = .next (outLastOp s)) ∨
    (t.outReady = true ∧ outValid s0 = true ∧ headByte s0 = none ∧ consumerCycle t s0 s = .fault .headByteMissing) := by
  unfold consumerCycle
  cases t.outReady <;> cases outValid s0 <;> simp only [Bool.and_true, Bool.and_false, Bool.false_eq_true, if_false, if_true]
  · exact .inl ⟨.inl (by simp), by simp⟩
  · exact .inl ⟨.inl (by simp), by simp⟩
  · exact .inl ⟨.inr (by simp), by simp⟩
  · unfold outWord
    cases hb : headByte s0 with
    | none => exact .inr (.inr (.inr ⟨by simp, by simp, rfl, rfl⟩))
    | some d =>
      simp only [Option.map_some, decodeOut_outWordOf]
      cases headLast s0
      · exact .inr (.inl ⟨by simp, by simp, rfl, ⟨d, rfl⟩, rfl⟩)
      · exact .inr (.inr (.inl ⟨by simp, by simp, rfl, ⟨d, rfl⟩, rfl⟩))

/-- SYNC_C2P of a `clk_p` edge (R120). -/
def c2pPart (t : Tick) (s0 s : State) : State :=
  match t.syncC2p with
  | some v => if c2pEnabled v s0 then syncC2pOp v s else s
  | none => s

/-- SYNC_P2C of a `clk_c` edge (R119). -/
def p2cPart (t : Tick) (s0 s : State) : State :=
  match t.syncP2c with
  | some v => if p2cEnabled v s0 then syncP2cOp v s else s
  | none => s

/-- A step of a legal build, by what the cycle is (R107, R121, R122, R159). -/
theorem step_eq (s : State) (hl : s.build.legal = true) :
    step s =
      if (nextTick s).rst then .next (resetOp (advance s))
      else if s.build.asyncFifo then
        match (nextTick s).edge with
        | .clkP => .next (c2pPart (nextTick s) (advance s) (producerState (nextTick s) (advance s)))
        | .clkC =>
          andThen (consumerCycle (nextTick s) (advance s) (advance s)) fun u => .next (p2cPart (nextTick s) (advance s) u)
      else
        andThen (consumerCycle (nextTick s) (advance s) (producerState (nextTick s) (advance s))) fun u =>
          .next (syncAll u) := by
  simp only [step, stepBlock, hl, if_true, runTick, advance_build]
  split
  · rfl
  · split
    · cases (nextTick s).edge
      · simp only [producerEdge, producerCycle_eq, andThen_next, ready, perform, c2pPart]
        cases (nextTick s).syncC2p with
        | none => rfl
        | some v => by_cases h : c2pEnabled v (advance s) = true <;> simp [h]
      · simp only [consumerEdge, ready, perform, p2cPart]
        cases (nextTick s).syncP2c with
        | none => rfl
        | some v =>
          congr 1
          funext u
          by_cases h : p2cEnabled v (advance s) = true <;> simp [h]
    · simp only [oneClockCycle, producerCycle_eq, andThen_next]

/-- Only a legal build steps (R7, D17). -/
theorem legal_of_step {s t : State} (h : step s = .next t) : s.build.legal = true := by
  by_contra hl
  simp [step, stepBlock, hl] at h

/-- The three kinds of cycle without reset that a step can be, and where they lead (R107, R121, R122). -/
theorem step_next_cases {s t : State} (hr : (nextTick s).rst = false) (h : step s = .next t) :
    (s.build.asyncFifo = false ∧ ∃ u,
      consumerCycle (nextTick s) (advance s) (producerState (nextTick s) (advance s)) = .next u ∧ t = syncAll u) ∨
    (s.build.asyncFifo = true ∧ (nextTick s).edge = .clkP ∧
      t = c2pPart (nextTick s) (advance s) (producerState (nextTick s) (advance s))) ∨
    (s.build.asyncFifo = true ∧ (nextTick s).edge = .clkC ∧ ∃ u,
      consumerCycle (nextTick s) (advance s) (advance s) = .next u ∧ t = p2cPart (nextTick s) (advance s) u) := by
  rw [step_eq s (legal_of_step h), if_neg (by simp [hr])] at h
  cases ha : s.build.asyncFifo
  · rw [if_neg (by simp [ha]), andThen_eq_next] at h
    obtain ⟨u, hu, ht⟩ := h
    exact .inl ⟨rfl, u, hu, by injection ht with ht; exact ht.symm⟩
  · rw [if_pos ha] at h
    cases he : (nextTick s).edge
    · rw [he] at h
      exact .inr (.inl ⟨rfl, rfl, by injection h with h; exact h.symm⟩)
    · rw [he] at h
      simp only at h
      rw [andThen_eq_next] at h
      obtain ⟨u, hu, ht⟩ := h
      exact .inr (.inr ⟨rfl, rfl, u, hu, by injection ht with ht; exact ht.symm⟩)

/-- What the consumer's part of a cycle leaves: the state, or the state with a byte or a frame taken. -/
theorem consumerCycle_next {t : Tick} {s0 s u : State} (h : consumerCycle t s0 s = .next u) :
    ((t.outReady = false ∨ outValid s0 = false) ∧ u = s) ∨
    (t.outReady = true ∧ outValid s0 = true ∧ headLast s0 = false ∧ (∃ d, headByte s0 = some d) ∧ u = outByteOp s) ∨
    (t.outReady = true ∧ outValid s0 = true ∧ headLast s0 = true ∧ (∃ d, headByte s0 = some d) ∧ u = outLastOp s) := by
  rcases consumerCycle_cases t s0 s with ⟨a, b⟩ | ⟨a, b, c, d, e⟩ | ⟨a, b, c, d, e⟩ | ⟨_, _, _, e⟩
  · rw [b] at h; injection h with h; exact .inl ⟨a, h.symm⟩
  · rw [e] at h; injection h with h; exact .inr (.inl ⟨a, b, c, d, h.symm⟩)
  · rw [e] at h; injection h with h; exact .inr (.inr ⟨a, b, c, d, h.symm⟩)
  · rw [e] at h; cases h

end Sys2Proof.Machine
end

