-- ==== Sys2Proof/Laws/Parts.lean ====
section
/-! SUPPORT. The parts of a cycle, field by field: what each leaves unchanged. -/

namespace Sys2Proof.Machine

open Sys2Proof

@[simp] theorem regPart_build (t : Tick) (s : State) : (regPart t s).build = s.build := by
  unfold regPart; cases t.reg <;> simp only <;> (repeat' split) <;> simp
@[simp] theorem regPart_W (t : Tick) (s : State) : (regPart t s).W = s.W := by
  unfold regPart; cases t.reg <;> simp only <;> (repeat' split) <;> simp
@[simp] theorem regPart_inRead (t : Tick) (s : State) : (regPart t s).inRead = s.inRead := by
  unfold regPart; cases t.reg <;> simp only <;> (repeat' split) <;> simp
@[simp] theorem regPart_scanning (t : Tick) (s : State) : (regPart t s).scanning = s.scanning := by
  unfold regPart; cases t.reg <;> simp only <;> (repeat' split) <;> simp
@[simp] theorem regPart_ovf (t : Tick) (s : State) : (regPart t s).ovf = s.ovf := by
  unfold regPart; cases t.reg <;> simp only <;> (repeat' split) <;> simp
@[simp] theorem regPart_evalPending (t : Tick) (s : State) : (regPart t s).evalPending = s.evalPending := by
  unfold regPart; cases t.reg <;> simp only <;> (repeat' split) <;> simp
@[simp] theorem regPart_Q (t : Tick) (s : State) : (regPart t s).Q = s.Q := by
  unfold regPart; cases t.reg <;> simp only <;> (repeat' split) <;> simp
@[simp] theorem regPart_wrCnt (t : Tick) (s : State) : (regPart t s).wrCnt = s.wrCnt := by
  unfold regPart; cases t.reg <;> simp only <;> (repeat' split) <;> simp
@[simp] theorem regPart_rdSeenP (t : Tick) (s : State) : (regPart t s).rdSeenP = s.rdSeenP := by
  unfold regPart; cases t.reg <;> simp only <;> (repeat' split) <;> simp
@[simp] theorem regPart_rdCnt (t : Tick) (s : State) : (regPart t s).rdCnt = s.rdCnt := by
  unfold regPart; cases t.reg <;> simp only <;> (repeat' split) <;> simp
@[simp] theorem regPart_wrSeenC (t : Tick) (s : State) : (regPart t s).wrSeenC = s.wrSeenC := by
  unfold regPart; cases t.reg <;> simp only <;> (repeat' split) <;> simp
@[simp] theorem regPart_rdOff (t : Tick) (s : State) : (regPart t s).rdOff = s.rdOff := by
  unfold regPart; cases t.reg <;> simp only <;> (repeat' split) <;> simp
@[simp] theorem regPart_cntFrames (t : Tick) (s : State) : (regPart t s).cntFrames = s.cntFrames := by
  unfold regPart; cases t.reg <;> simp only <;> (repeat' split) <;> simp
@[simp] theorem regPart_pending (t : Tick) (s : State) : (regPart t s).pending = s.pending := by
  unfold regPart; cases t.reg <;> simp only <;> (repeat' split) <;> simp
@[simp] theorem regPart_drawn (t : Tick) (s : State) : (regPart t s).drawn = s.drawn := by
  unfold regPart; cases t.reg <;> simp only <;> (repeat' split) <;> simp

@[simp] theorem evalState_build (s : State) : (evalState s).build = s.build := by
  unfold evalState; split <;> simp
@[simp] theorem evalState_mode (s : State) : (evalState s).mode = s.mode := by
  unfold evalState; split <;> simp
@[simp] theorem evalState_inRead (s : State) : (evalState s).inRead = s.inRead := by
  unfold evalState; split <;> simp
@[simp] theorem evalState_scanning (s : State) : (evalState s).scanning = s.scanning := by
  unfold evalState; split <;> simp
@[simp] theorem evalState_stopReq (s : State) : (evalState s).stopReq = s.stopReq := by
  unfold evalState; split <;> simp
@[simp] theorem evalState_rdSeenP (s : State) : (evalState s).rdSeenP = s.rdSeenP := by
  unfold evalState; split <;> simp
@[simp] theorem evalState_rdCnt (s : State) : (evalState s).rdCnt = s.rdCnt := by
  unfold evalState; split <;> simp
@[simp] theorem evalState_wrSeenC (s : State) : (evalState s).wrSeenC = s.wrSeenC := by
  unfold evalState; split <;> simp
@[simp] theorem evalState_rdOff (s : State) : (evalState s).rdOff = s.rdOff := by
  unfold evalState; split <;> simp
@[simp] theorem evalState_stkXport (s : State) : (evalState s).stkXport = s.stkXport := by
  unfold evalState; split <;> simp [raiseErr]
@[simp] theorem evalState_regRdata (s : State) : (evalState s).regRdata = s.regRdata := by
  unfold evalState; split <;> simp
@[simp] theorem evalState_pending (s : State) : (evalState s).pending = s.pending := by
  unfold evalState; split <;> simp
@[simp] theorem evalState_drawn (s : State) : (evalState s).drawn = s.drawn := by
  unfold evalState; split <;> simp

@[simp] theorem beatState_build (w : BitVec 10) (s : State) : (beatState w s).build = s.build := by
  unfold beatState; split <;> simp
@[simp] theorem beatState_stopReq (w : BitVec 10) (s : State) : (beatState w s).stopReq = s.stopReq := by
  unfold beatState; split <;> simp
@[simp] theorem beatState_Q (w : BitVec 10) (s : State) : (beatState w s).Q = s.Q := by
  unfold beatState; split <;> simp
@[simp] theorem beatState_wrCnt (w : BitVec 10) (s : State) : (beatState w s).wrCnt = s.wrCnt := by
  unfold beatState; split <;> simp
@[simp] theorem beatState_rdSeenP (w : BitVec 10) (s : State) : (beatState w s).rdSeenP = s.rdSeenP := by
  unfold beatState; split <;> simp
@[simp] theorem beatState_rdCnt (w : BitVec 10) (s : State) : (beatState w s).rdCnt = s.rdCnt := by
  unfold beatState; split <;> simp
@[simp] theorem beatState_wrSeenC (w : BitVec 10) (s : State) : (beatState w s).wrSeenC = s.wrSeenC := by
  unfold beatState; split <;> simp
@[simp] theorem beatState_rdOff (w : BitVec 10) (s : State) : (beatState w s).rdOff = s.rdOff := by
  unfold beatState; split <;> simp
@[simp] theorem beatState_cntFrames (w : BitVec 10) (s : State) : (beatState w s).cntFrames = s.cntFrames := by
  unfold beatState; split <;> simp
@[simp] theorem beatState_cntZlen (w : BitVec 10) (s : State) : (beatState w s).cntZlen = s.cntZlen := by
  unfold beatState; split <;> simp
@[simp] theorem beatState_cntCsum (w : BitVec 10) (s : State) : (beatState w s).cntCsum = s.cntCsum := by
  unfold beatState; split <;> simp
@[simp] theorem beatState_cntOvf (w : BitVec 10) (s : State) : (beatState w s).cntOvf = s.cntOvf := by
  unfold beatState; split <;> simp
@[simp] theorem beatState_stkZlen (w : BitVec 10) (s : State) : (beatState w s).stkZlen = s.stkZlen := by
  unfold beatState; split <;> simp
@[simp] theorem beatState_stkCsum (w : BitVec 10) (s : State) : (beatState w s).stkCsum = s.stkCsum := by
  unfold beatState; split <;> simp
@[simp] theorem beatState_stkOvf (w : BitVec 10) (s : State) : (beatState w s).stkOvf = s.stkOvf := by
  unfold beatState; split <;> simp
@[simp] theorem beatState_regRdata (w : BitVec 10) (s : State) : (beatState w s).regRdata = s.regRdata := by
  unfold beatState; split <;> simp
@[simp] theorem beatState_pending (w : BitVec 10) (s : State) : (beatState w s).pending = s.pending := by
  unfold beatState; split <;> simp
@[simp] theorem beatState_drawn (w : BitVec 10) (s : State) : (beatState w s).drawn = s.drawn := by
  unfold beatState; split <;> simp

@[simp] theorem evalPart_build (t : Tick) (s0 : State) (s : State) : (evalPart t s0 s).build = s.build := by
  unfold evalPart; split <;> simp
@[simp] theorem evalPart_mode (t : Tick) (s0 : State) (s : State) : (evalPart t s0 s).mode = s.mode := by
  unfold evalPart; split <;> simp
@[simp] theorem evalPart_inRead (t : Tick) (s0 : State) (s : State) : (evalPart t s0 s).inRead = s.inRead := by
  unfold evalPart; split <;> simp
@[simp] theorem evalPart_scanning (t : Tick) (s0 : State) (s : State) : (evalPart t s0 s).scanning = s.scanning := by
  unfold evalPart; split <;> simp
@[simp] theorem evalPart_stopReq (t : Tick) (s0 : State) (s : State) : (evalPart t s0 s).stopReq = s.stopReq := by
  unfold evalPart; split <;> simp
@[simp] theorem evalPart_rdSeenP (t : Tick) (s0 : State) (s : State) : (evalPart t s0 s).rdSeenP = s.rdSeenP := by
  unfold evalPart; split <;> simp
@[simp] theorem evalPart_rdCnt (t : Tick) (s0 : State) (s : State) : (evalPart t s0 s).rdCnt = s.rdCnt := by
  unfold evalPart; split <;> simp
@[simp] theorem evalPart_wrSeenC (t : Tick) (s0 : State) (s : State) : (evalPart t s0 s).wrSeenC = s.wrSeenC := by
  unfold evalPart; split <;> simp
@[simp] theorem evalPart_rdOff (t : Tick) (s0 : State) (s : State) : (evalPart t s0 s).rdOff = s.rdOff := by
  unfold evalPart; split <;> simp
@[simp] theorem evalPart_stkXport (t : Tick) (s0 : State) (s : State) : (evalPart t s0 s).stkXport = s.stkXport := by
  unfold evalPart; split <;> simp
@[simp] theorem evalPart_regRdata (t : Tick) (s0 : State) (s : State) : (evalPart t s0 s).regRdata = s.regRdata := by
  unfold evalPart; split <;> simp
@[simp] theorem evalPart_pending (t : Tick) (s0 : State) (s : State) : (evalPart t s0 s).pending = s.pending := by
  unfold evalPart; split <;> simp
@[simp] theorem evalPart_drawn (t : Tick) (s0 : State) (s : State) : (evalPart t s0 s).drawn = s.drawn := by
  unfold evalPart; split <;> simp

@[simp] theorem enginePart_build (t : Tick) (s0 : State) (s : State) : (enginePart t s0 s).build = s.build := by
  unfold enginePart; cases t.beat <;> simp only <;> (try split) <;> simp
@[simp] theorem enginePart_stopReq (t : Tick) (s0 : State) (s : State) : (enginePart t s0 s).stopReq = s.stopReq := by
  unfold enginePart; cases t.beat <;> simp only <;> (try split) <;> simp
@[simp] theorem enginePart_rdSeenP (t : Tick) (s0 : State) (s : State) : (enginePart t s0 s).rdSeenP = s.rdSeenP := by
  unfold enginePart; cases t.beat <;> simp only <;> (try split) <;> simp
@[simp] theorem enginePart_rdCnt (t : Tick) (s0 : State) (s : State) : (enginePart t s0 s).rdCnt = s.rdCnt := by
  unfold enginePart; cases t.beat <;> simp only <;> (try split) <;> simp
@[simp] theorem enginePart_wrSeenC (t : Tick) (s0 : State) (s : State) : (enginePart t s0 s).wrSeenC = s.wrSeenC := by
  unfold enginePart; cases t.beat <;> simp only <;> (try split) <;> simp
@[simp] theorem enginePart_rdOff (t : Tick) (s0 : State) (s : State) : (enginePart t s0 s).rdOff = s.rdOff := by
  unfold enginePart; cases t.beat <;> simp only <;> (try split) <;> simp
@[simp] theorem enginePart_regRdata (t : Tick) (s0 : State) (s : State) : (enginePart t s0 s).regRdata = s.regRdata := by
  unfold enginePart; cases t.beat <;> simp only <;> (try split) <;> simp
@[simp] theorem enginePart_pending (t : Tick) (s0 : State) (s : State) : (enginePart t s0 s).pending = s.pending := by
  unfold enginePart; cases t.beat <;> simp only <;> (try split) <;> simp
@[simp] theorem enginePart_drawn (t : Tick) (s0 : State) (s : State) : (enginePart t s0 s).drawn = s.drawn := by
  unfold enginePart; cases t.beat <;> simp only <;> (try split) <;> simp

@[simp] theorem stopPart_build (s : State) : (stopPart s).build = s.build := by
  unfold stopPart; split <;> simp
@[simp] theorem stopPart_W (s : State) : (stopPart s).W = s.W := by
  unfold stopPart; split <;> simp
@[simp] theorem stopPart_inRead (s : State) : (stopPart s).inRead = s.inRead := by
  unfold stopPart; split <;> simp
@[simp] theorem stopPart_scanning (s : State) : (stopPart s).scanning = s.scanning := by
  unfold stopPart; split <;> simp
@[simp] theorem stopPart_ovf (s : State) : (stopPart s).ovf = s.ovf := by
  unfold stopPart; split <;> simp
@[simp] theorem stopPart_evalPending (s : State) : (stopPart s).evalPending = s.evalPending := by
  unfold stopPart; split <;> simp
@[simp] theorem stopPart_Q (s : State) : (stopPart s).Q = s.Q := by
  unfold stopPart; split <;> simp
@[simp] theorem stopPart_wrCnt (s : State) : (stopPart s).wrCnt = s.wrCnt := by
  unfold stopPart; split <;> simp
@[simp] theorem stopPart_rdSeenP (s : State) : (stopPart s).rdSeenP = s.rdSeenP := by
  unfold stopPart; split <;> simp
@[simp] theorem stopPart_rdCnt (s : State) : (stopPart s).rdCnt = s.rdCnt := by
  unfold stopPart; split <;> simp
@[simp] theorem stopPart_wrSeenC (s : State) : (stopPart s).wrSeenC = s.wrSeenC := by
  unfold stopPart; split <;> simp
@[simp] theorem stopPart_rdOff (s : State) : (stopPart s).rdOff = s.rdOff := by
  unfold stopPart; split <;> simp
@[simp] theorem stopPart_cntFrames (s : State) : (stopPart s).cntFrames = s.cntFrames := by
  unfold stopPart; split <;> simp
@[simp] theorem stopPart_cntZlen (s : State) : (stopPart s).cntZlen = s.cntZlen := by
  unfold stopPart; split <;> simp
@[simp] theorem stopPart_cntCsum (s : State) : (stopPart s).cntCsum = s.cntCsum := by
  unfold stopPart; split <;> simp
@[simp] theorem stopPart_cntOvf (s : State) : (stopPart s).cntOvf = s.cntOvf := by
  unfold stopPart; split <;> simp
@[simp] theorem stopPart_stkZlen (s : State) : (stopPart s).stkZlen = s.stkZlen := by
  unfold stopPart; split <;> simp
@[simp] theorem stopPart_stkCsum (s : State) : (stopPart s).stkCsum = s.stkCsum := by
  unfold stopPart; split <;> simp
@[simp] theorem stopPart_stkOvf (s : State) : (stopPart s).stkOvf = s.stkOvf := by
  unfold stopPart; split <;> simp
@[simp] theorem stopPart_stkXport (s : State) : (stopPart s).stkXport = s.stkXport := by
  unfold stopPart; split <;> simp
@[simp] theorem stopPart_errOut (s : State) : (stopPart s).errOut = s.errOut := by
  unfold stopPart; split <;> simp
@[simp] theorem stopPart_regRdata (s : State) : (stopPart s).regRdata = s.regRdata := by
  unfold stopPart; split <;> simp
@[simp] theorem stopPart_pending (s : State) : (stopPart s).pending = s.pending := by
  unfold stopPart; split <;> simp
@[simp] theorem stopPart_drawn (s : State) : (stopPart s).drawn = s.drawn := by
  unfold stopPart; split <;> simp

@[simp] theorem producerState_build (t : Tick) (s : State) : (producerState t s).build = s.build := by
  simp [producerState]
@[simp] theorem producerState_rdSeenP (t : Tick) (s : State) : (producerState t s).rdSeenP = s.rdSeenP := by
  simp [producerState]
@[simp] theorem producerState_rdCnt (t : Tick) (s : State) : (producerState t s).rdCnt = s.rdCnt := by
  simp [producerState]
@[simp] theorem producerState_wrSeenC (t : Tick) (s : State) : (producerState t s).wrSeenC = s.wrSeenC := by
  simp [producerState]
@[simp] theorem producerState_rdOff (t : Tick) (s : State) : (producerState t s).rdOff = s.rdOff := by
  simp [producerState]
@[simp] theorem producerState_pending (t : Tick) (s : State) : (producerState t s).pending = s.pending := by
  simp [producerState]
@[simp] theorem producerState_drawn (t : Tick) (s : State) : (producerState t s).drawn = s.drawn := by
  simp [producerState]

@[simp] theorem c2pPart_build (t : Tick) (s0 : State) (s : State) : (c2pPart t s0 s).build = s.build := by
  unfold c2pPart; split <;> (try split) <;> simp
@[simp] theorem c2pPart_mode (t : Tick) (s0 : State) (s : State) : (c2pPart t s0 s).mode = s.mode := by
  unfold c2pPart; split <;> (try split) <;> simp
@[simp] theorem c2pPart_W (t : Tick) (s0 : State) (s : State) : (c2pPart t s0 s).W = s.W := by
  unfold c2pPart; split <;> (try split) <;> simp
@[simp] theorem c2pPart_inRead (t : Tick) (s0 : State) (s : State) : (c2pPart t s0 s).inRead = s.inRead := by
  unfold c2pPart; split <;> (try split) <;> simp
@[simp] theorem c2pPart_scanning (t : Tick) (s0 : State) (s : State) : (c2pPart t s0 s).scanning = s.scanning := by
  unfold c2pPart; split <;> (try split) <;> simp
@[simp] theorem c2pPart_ovf (t : Tick) (s0 : State) (s : State) : (c2pPart t s0 s).ovf = s.ovf := by
  unfold c2pPart; split <;> (try split) <;> simp
@[simp] theorem c2pPart_evalPending (t : Tick) (s0 : State) (s : State) : (c2pPart t s0 s).evalPending = s.evalPending := by
  unfold c2pPart; split <;> (try split) <;> simp
@[simp] theorem c2pPart_stopReq (t : Tick) (s0 : State) (s : State) : (c2pPart t s0 s).stopReq = s.stopReq := by
  unfold c2pPart; split <;> (try split) <;> simp
@[simp] theorem c2pPart_Q (t : Tick) (s0 : State) (s : State) : (c2pPart t s0 s).Q = s.Q := by
  unfold c2pPart; split <;> (try split) <;> simp
@[simp] theorem c2pPart_wrCnt (t : Tick) (s0 : State) (s : State) : (c2pPart t s0 s).wrCnt = s.wrCnt := by
  unfold c2pPart; split <;> (try split) <;> simp
@[simp] theorem c2pPart_rdCnt (t : Tick) (s0 : State) (s : State) : (c2pPart t s0 s).rdCnt = s.rdCnt := by
  unfold c2pPart; split <;> (try split) <;> simp
@[simp] theorem c2pPart_wrSeenC (t : Tick) (s0 : State) (s : State) : (c2pPart t s0 s).wrSeenC = s.wrSeenC := by
  unfold c2pPart; split <;> (try split) <;> simp
@[simp] theorem c2pPart_rdOff (t : Tick) (s0 : State) (s : State) : (c2pPart t s0 s).rdOff = s.rdOff := by
  unfold c2pPart; split <;> (try split) <;> simp
@[simp] theorem c2pPart_cntFrames (t : Tick) (s0 : State) (s : State) : (c2pPart t s0 s).cntFrames = s.cntFrames := by
  unfold c2pPart; split <;> (try split) <;> simp
@[simp] theorem c2pPart_cntZlen (t : Tick) (s0 : State) (s : State) : (c2pPart t s0 s).cntZlen = s.cntZlen := by
  unfold c2pPart; split <;> (try split) <;> simp
@[simp] theorem c2pPart_cntCsum (t : Tick) (s0 : State) (s : State) : (c2pPart t s0 s).cntCsum = s.cntCsum := by
  unfold c2pPart; split <;> (try split) <;> simp
@[simp] theorem c2pPart_cntOvf (t : Tick) (s0 : State) (s : State) : (c2pPart t s0 s).cntOvf = s.cntOvf := by
  unfold c2pPart; split <;> (try split) <;> simp
@[simp] theorem c2pPart_stkZlen (t : Tick) (s0 : State) (s : State) : (c2pPart t s0 s).stkZlen = s.stkZlen := by
  unfold c2pPart; split <;> (try split) <;> simp
@[simp] theorem c2pPart_stkCsum (t : Tick) (s0 : State) (s : State) : (c2pPart t s0 s).stkCsum = s.stkCsum := by
  unfold c2pPart; split <;> (try split) <;> simp
@[simp] theorem c2pPart_stkOvf (t : Tick) (s0 : State) (s : State) : (c2pPart t s0 s).stkOvf = s.stkOvf := by
  unfold c2pPart; split <;> (try split) <;> simp
@[simp] theorem c2pPart_stkXport (t : Tick) (s0 : State) (s : State) : (c2pPart t s0 s).stkXport = s.stkXport := by
  unfold c2pPart; split <;> (try split) <;> simp
@[simp] theorem c2pPart_errOut (t : Tick) (s0 : State) (s : State) : (c2pPart t s0 s).errOut = s.errOut := by
  unfold c2pPart; split <;> (try split) <;> simp
@[simp] theorem c2pPart_regRdata (t : Tick) (s0 : State) (s : State) : (c2pPart t s0 s).regRdata = s.regRdata := by
  unfold c2pPart; split <;> (try split) <;> simp
@[simp] theorem c2pPart_pending (t : Tick) (s0 : State) (s : State) : (c2pPart t s0 s).pending = s.pending := by
  unfold c2pPart; split <;> (try split) <;> simp
@[simp] theorem c2pPart_drawn (t : Tick) (s0 : State) (s : State) : (c2pPart t s0 s).drawn = s.drawn := by
  unfold c2pPart; split <;> (try split) <;> simp

@[simp] theorem p2cPart_build (t : Tick) (s0 : State) (s : State) : (p2cPart t s0 s).build = s.build := by
  unfold p2cPart; split <;> (try split) <;> simp
@[simp] theorem p2cPart_mode (t : Tick) (s0 : State) (s : State) : (p2cPart t s0 s).mode = s.mode := by
  unfold p2cPart; split <;> (try split) <;> simp
@[simp] theorem p2cPart_W (t : Tick) (s0 : State) (s : State) : (p2cPart t s0 s).W = s.W := by
  unfold p2cPart; split <;> (try split) <;> simp
@[simp] theorem p2cPart_inRead (t : Tick) (s0 : State) (s : State) : (p2cPart t s0 s).inRead = s.inRead := by
  unfold p2cPart; split <;> (try split) <;> simp
@[simp] theorem p2cPart_scanning (t : Tick) (s0 : State) (s : State) : (p2cPart t s0 s).scanning = s.scanning := by
  unfold p2cPart; split <;> (try split) <;> simp
@[simp] theorem p2cPart_ovf (t : Tick) (s0 : State) (s : State) : (p2cPart t s0 s).ovf = s.ovf := by
  unfold p2cPart; split <;> (try split) <;> simp
@[simp] theorem p2cPart_evalPending (t : Tick) (s0 : State) (s : State) : (p2cPart t s0 s).evalPending = s.evalPending := by
  unfold p2cPart; split <;> (try split) <;> simp
@[simp] theorem p2cPart_stopReq (t : Tick) (s0 : State) (s : State) : (p2cPart t s0 s).stopReq = s.stopReq := by
  unfold p2cPart; split <;> (try split) <;> simp
@[simp] theorem p2cPart_Q (t : Tick) (s0 : State) (s : State) : (p2cPart t s0 s).Q = s.Q := by
  unfold p2cPart; split <;> (try split) <;> simp
@[simp] theorem p2cPart_wrCnt (t : Tick) (s0 : State) (s : State) : (p2cPart t s0 s).wrCnt = s.wrCnt := by
  unfold p2cPart; split <;> (try split) <;> simp
@[simp] theorem p2cPart_rdSeenP (t : Tick) (s0 : State) (s : State) : (p2cPart t s0 s).rdSeenP = s.rdSeenP := by
  unfold p2cPart; split <;> (try split) <;> simp
@[simp] theorem p2cPart_rdCnt (t : Tick) (s0 : State) (s : State) : (p2cPart t s0 s).rdCnt = s.rdCnt := by
  unfold p2cPart; split <;> (try split) <;> simp
@[simp] theorem p2cPart_rdOff (t : Tick) (s0 : State) (s : State) : (p2cPart t s0 s).rdOff = s.rdOff := by
  unfold p2cPart; split <;> (try split) <;> simp
@[simp] theorem p2cPart_cntFrames (t : Tick) (s0 : State) (s : State) : (p2cPart t s0 s).cntFrames = s.cntFrames := by
  unfold p2cPart; split <;> (try split) <;> simp
@[simp] theorem p2cPart_cntZlen (t : Tick) (s0 : State) (s : State) : (p2cPart t s0 s).cntZlen = s.cntZlen := by
  unfold p2cPart; split <;> (try split) <;> simp
@[simp] theorem p2cPart_cntCsum (t : Tick) (s0 : State) (s : State) : (p2cPart t s0 s).cntCsum = s.cntCsum := by
  unfold p2cPart; split <;> (try split) <;> simp
@[simp] theorem p2cPart_cntOvf (t : Tick) (s0 : State) (s : State) : (p2cPart t s0 s).cntOvf = s.cntOvf := by
  unfold p2cPart; split <;> (try split) <;> simp
@[simp] theorem p2cPart_stkZlen (t : Tick) (s0 : State) (s : State) : (p2cPart t s0 s).stkZlen = s.stkZlen := by
  unfold p2cPart; split <;> (try split) <;> simp
@[simp] theorem p2cPart_stkCsum (t : Tick) (s0 : State) (s : State) : (p2cPart t s0 s).stkCsum = s.stkCsum := by
  unfold p2cPart; split <;> (try split) <;> simp
@[simp] theorem p2cPart_stkOvf (t : Tick) (s0 : State) (s : State) : (p2cPart t s0 s).stkOvf = s.stkOvf := by
  unfold p2cPart; split <;> (try split) <;> simp
@[simp] theorem p2cPart_stkXport (t : Tick) (s0 : State) (s : State) : (p2cPart t s0 s).stkXport = s.stkXport := by
  unfold p2cPart; split <;> (try split) <;> simp
@[simp] theorem p2cPart_errOut (t : Tick) (s0 : State) (s : State) : (p2cPart t s0 s).errOut = s.errOut := by
  unfold p2cPart; split <;> (try split) <;> simp
@[simp] theorem p2cPart_regRdata (t : Tick) (s0 : State) (s : State) : (p2cPart t s0 s).regRdata = s.regRdata := by
  unfold p2cPart; split <;> (try split) <;> simp
@[simp] theorem p2cPart_pending (t : Tick) (s0 : State) (s : State) : (p2cPart t s0 s).pending = s.pending := by
  unfold p2cPart; split <;> (try split) <;> simp
@[simp] theorem p2cPart_drawn (t : Tick) (s0 : State) (s : State) : (p2cPart t s0 s).drawn = s.drawn := by
  unfold p2cPart; split <;> (try split) <;> simp

/-- The signals of a cycle do not depend on where the cycle's offer came from. -/
@[simp] theorem inReady_advance (s : State) : inReady (advance s) = inReady s := by
  unfold advance; split <;> rfl
@[simp] theorem outValid_advance (s : State) : outValid (advance s) = outValid s := by
  unfold advance; split <;> rfl
@[simp] theorem headByte_advance (s : State) : headByte (advance s) = headByte s := by
  unfold advance; split <;> rfl
@[simp] theorem headLast_advance (s : State) : headLast (advance s) = headLast s := by
  unfold advance; split <;> rfl
@[simp] theorem stopEnabled_advance (s : State) : stopEnabled (advance s) = stopEnabled s := by
  unfold advance; split <;> rfl
@[simp] theorem hasRoom_advance (s : State) : hasRoom (advance s) = hasRoom s := by
  unfold advance; split <;> rfl
@[simp] theorem evalOutcome_advance (s : State) : evalOutcome (advance s) = evalOutcome s := by
  unfold advance; split <;> rfl
@[simp] theorem evalEnabled_advance (s : State) : evalEnabled (advance s) = evalEnabled s := by
  unfold advance; split <;> rfl

/-- EVAL's outcome does not depend on the cycle's register operation (R107). -/
@[simp] theorem evalOutcome_regPart (t : Tick) (s : State) : evalOutcome (regPart t s) = evalOutcome s := by simp [evalOutcome]

/-- Nor does whether it is enabled (R103). -/
@[simp] theorem evalEnabled_regPart (t : Tick) (s : State) : evalEnabled (regPart t s) = evalEnabled s := by
  unfold evalEnabled hasRoom pCount; simp

/-- The cycle's register operation never raises an error: the event register is empty after it (R107). -/
@[simp] theorem regPart_errOut (t : Tick) (s : State) : (regPart t s).errOut = none := by
  unfold regPart
  cases t.reg <;> simp only <;> (repeat' split) <;> simp

/-- A register write moves `mode` from STOPPED to RUN or not at all (R129). -/
theorem regPart_mode (t : Tick) (s : State) : (regPart t s).mode = s.mode ∨ (s.mode = .stopped ∧ (regPart t s).mode = .run) := by
  unfold regPart wrCtrlOp startStop
  cases t.reg <;> simp only <;> (repeat' split) <;> simp_all

/-- A register write changes `stopReq` in RUN only (R129). -/
theorem regPart_stopReq (t : Tick) (s : State) : (regPart t s).stopReq = s.stopReq ∨ s.mode = .run := by
  unfold regPart wrCtrlOp startStop
  cases t.reg <;> simp only <;> (repeat' split) <;> simp_all

/-- After a producer cycle without reset the engine, the counters, the flags and the event are as the producer's part leaves them (R107). -/
theorem step_producer {s t : State} (hr : (nextTick s).rst = false) (hc : s.build.asyncFifo = true → (nextTick s).edge = .clkP)
    (h : step s = .next t) : let p := producerState (nextTick s) (advance s)
      t.mode = p.mode ∧ t.W = p.W ∧ t.inRead = p.inRead ∧ t.scanning = p.scanning ∧ t.ovf = p.ovf ∧ t.evalPending = p.evalPending ∧
      t.stopReq = p.stopReq ∧ t.wrCnt = p.wrCnt ∧ t.cntFrames = p.cntFrames ∧ t.cntZlen = p.cntZlen ∧
      t.cntCsum = p.cntCsum ∧ t.cntOvf = p.cntOvf ∧ t.stkZlen = p.stkZlen ∧ t.stkCsum = p.stkCsum ∧ t.stkOvf = p.stkOvf ∧ t.stkXport = p.stkXport ∧ t.errOut = p.errOut := by
  rcases step_next_cases hr h with ⟨_, u, hu, rfl⟩ | ⟨_, _, rfl⟩ | ⟨ha, he, u, hu, rfl⟩
  · rcases consumerCycle_next hu with ⟨_, rfl⟩ | ⟨_, _, _, _, rfl⟩ | ⟨_, _, _, _, rfl⟩ <;> simp
  · simp
  · rw [hc ha] at he; cases he

end Sys2Proof.Machine
end

