-- ==== Sys2Proof/Laws/Invariant.lean ====
section
/-! SUPPORT. Each shared operation and each part of a cycle keeps the clauses of R31 that concern it. -/

namespace Sys2Proof.Machine

open Sys2Proof

/-- A legal build holds the largest frame (R7). -/
theorem bufBytes_of_legal {s : State} (h : s.build.legal = true) : 258 ≤ s.build.bufBytes := by
  simp [Config.Build.legal] at h; omega

/-- A valid frame (R31 (g)). -/
theorem validFrame_iff (F : List Byte) :
    validFrame F = true ↔
      2 ≤ F.length ∧ F.head? = some 0x13 ∧ F.getD 1 0 ≠ 0 ∧ F.length = (F.getD 1 0).toNat + 3 ∧ sum8 F = 0 := by
  match F with
  | [] => simp [validFrame]
  | [a] => simp [validFrame]
  | a :: l :: r => simp [validFrame, and_assoc]

/-- A corrupted frame (R111). -/
theorem corruptFrame_iff (F : List Byte) :
    corruptFrame F = true ↔
      2 ≤ F.length ∧ F.head? = some 0x13 ∧ F.getD 1 0 ≠ 0 ∧ F.length = (F.getD 1 0).toNat + 3 ∧ sum8 F ≠ 0 := by
  match F with
  | [] => simp [corruptFrame]
  | [a] => simp [corruptFrame]
  | a :: l :: r => simp [corruptFrame, and_assoc]

/-- R31's engine clauses depend on these elements only. -/
theorem engineInv_of_eq {s u : State} (h : s.EngineInv) (e1 : u.build = s.build) (e2 : u.W = s.W) (e3 : u.inRead = s.inRead)
    (e4 : u.scanning = s.scanning) (e5 : u.evalPending = s.evalPending) (e6 : u.mode = s.mode) (e7 : u.stopReq = s.stopReq) :
    u.EngineInv := by
    unfold State.EngineInv at *
    rw [e1, e2, e3, e4, e5, e6, e7]; exact h

/-- R31's queue clauses depend on these elements only. -/
theorem queueInv_of_eq {s u : State} (hq : s.QueueInv) (e1 : u.build = s.build) (e2 : u.Q = s.Q) (e3 : u.wrCnt = s.wrCnt)
    (e4 : u.rdSeenP = s.rdSeenP) (e5 : u.rdCnt = s.rdCnt) (e6 : u.wrSeenC = s.wrSeenC) (e7 : u.rdOff = s.rdOff) : u.QueueInv := by
    unfold State.QueueInv offsetInHead at *
    rw [e1, e2, e3, e4, e5, e6, e7]; exact hq

/-- What a byte leaves of the working frame: bounded, sentinel first, and empty exactly while scanning (R98 to R100). -/
theorem absorb_inv (d : Byte) (s : State) (hl : s.build.legal = true) (h : s.EngineInv) :
    (absorb d s).W.length ≤ s.build.bufBytes ∧ ((absorb d s).W = [] ∨ (absorb d s).W.head? = some 0x13) ∧
    ((absorb d s).scanning = true → (absorb d s).W = []) ∧ ((absorb d s).scanning = false → (absorb d s).W ≠ []) := by
  obtain ⟨h1, h2, h3, h4, h5, h6, h7⟩ := h
  have := bufBytes_of_legal hl
  rcases absorb_cases d s with ⟨a, b, c⟩ | ⟨a, b, c⟩ | ⟨a, b, c⟩ | ⟨a, b, c, e⟩
  · rw [c]; rw [scans_iff] at a
    have hw : s.W = [] := by rcases a with a | a; exact a.2; exact (h3 a.2).1
    simp [hw]
  · rw [c]; simp [Config.sentinel]; omega
  · rw [c]
    have hw : s.W ≠ [] := by
      intro hw
      have hn : ¬ ((s.inRead = false ∧ s.W = []) ∨ (s.inRead = true ∧ s.scanning = true)) := by
        rw [← scans_iff]; simp [a]
      cases hi : s.inRead <;> cases hs : s.scanning <;> simp_all
    simp only [false_implies, true_implies, true_and, Bool.false_eq_true]
    exact ⟨h1, h2, hw⟩
  · rw [e]
    have hw : s.W ≠ [] := by
      intro hw
      have hn : ¬ ((s.inRead = false ∧ s.W = []) ∨ (s.inRead = true ∧ s.scanning = true)) := by
        rw [← scans_iff]; simp [a]
      cases hi : s.inRead <;> cases hs : s.scanning <;> simp_all
    rcases h2 with h2 | h2
    · exact absurd h2 hw
    · refine ⟨by simp; omega, .inr ?_, by simp, by simp⟩
      cases hW : s.W with
      | nil => exact absurd hW hw
      | cons x xs => rw [hW] at h2; simpa using h2

/-- IN_BYTE keeps the engine clauses of R31. -/
theorem inByteOp_engineInv (d : Byte) (s : State) (hl : s.build.legal = true) (h : s.EngineInv) (hm : s.mode = .run)
    (hep : s.evalPending = false) : (inByteOp d s).EngineInv := by
  obtain ⟨a1, a2, a3, a4⟩ := absorb_inv d s hl h
  unfold State.EngineInv inByteOp
  simp only [absorb_build, absorb_mode, absorb_evalPending, absorb_stopReq, hm, hep]
  exact ⟨a1, a2, fun h => ⟨a3 h, by simp⟩, by simp, by simp, fun _ => a4, by simp⟩

/-- IN_LAST keeps the engine clauses of R31. -/
theorem inLastOp_engineInv (d : Byte) (s : State) (hl : s.build.legal = true) (h : s.EngineInv) (hm : s.mode = .run) :
    (inLastOp d s).EngineInv := by
  obtain ⟨a1, a2, a3, a4⟩ := absorb_inv d s hl h
  unfold State.EngineInv inLastOp
  simp only [absorb_build, absorb_mode, absorb_stopReq, hm]
  exact ⟨a1, a2, by simp, by simp, by simp, by simp, by simp⟩

/-- IN_ERR keeps the engine clauses of R31. -/
theorem inErrOp_engineInv (s : State) (h : s.EngineInv) (hep : s.evalPending = false) : (inErrOp s).EngineInv := by
  obtain ⟨h1, h2, h3, h4, h5, h6, h7⟩ := h
  unfold State.EngineInv
  simp only [inErrOp, raiseErr, hep]
  exact ⟨h1, h2, h3, by simp, by simp, h6, by simp⟩

/-- An accepted beat keeps the engine clauses of R31. -/
theorem beatState_engineInv (w : BitVec 10) (s : State) (hl : s.build.legal = true) (h : s.EngineInv) (hm : s.mode = .run)
    (hep : s.evalPending = false) : (beatState w s).EngineInv := by
  unfold beatState
  rcases decodeIn_cases w with ⟨_, h'⟩ | ⟨_, _, h'⟩ | ⟨_, _, h'⟩ <;> rw [h']
  · exact inErrOp_engineInv s h hep
  · exact inLastOp_engineInv _ s hl h hm
  · exact inByteOp_engineInv _ s hl h hm hep

/-- An enabled EVAL keeps R31: what it commits is a valid frame, and there is room for it. -/
theorem evalState_inv (s : State) (h : s.EngineInv) (hq : s.QueueInv) (hen : evalEnabled s = true) :
    (evalState s).EngineInv ∧ (evalState s).QueueInv := by
  obtain ⟨h1, h2, h3, h4, h5, h6, h7⟩ := h
  have hep : s.evalPending = true := by
    unfold evalEnabled at hen; rw [Bool.and_eq_true] at hen; exact hen.1
  have hin := h4 hep
  have hsc : s.scanning = false := by
    cases hs : s.scanning; rfl; rw [(h3 hs).2] at hin; cases hin
  have hm : s.mode = .run := by
    cases hm : s.mode
    · have := (h5 hm).2.1; simp [hep] at this
    · rfl
    · have := h7 hm; simp [hep] at this
  have ho := evalOutcome_eq s
  have hgen : ∀ u : State, u.build = s.build → u.mode = s.mode → u.inRead = s.inRead → u.scanning = s.scanning → u.W.length ≤ s.build.bufBytes → (u.W = [] ∨ u.W.head? = some 0x13) → u.evalPending = false → u.EngineInv := by
    intro u e1 e2 e3 e4 e5 e6 e7
    unfold State.EngineInv
    rw [e1, e2, e3, e4, e7, hin, hsc, hm]
    exact ⟨e5, e6, by simp, by simp, by simp, by simp, by simp⟩
  have hgq : ∀ u : State, u.build = s.build → u.Q = s.Q → u.wrCnt = s.wrCnt → u.rdSeenP = s.rdSeenP → u.rdCnt = s.rdCnt → u.wrSeenC = s.wrSeenC → u.rdOff = s.rdOff → u.QueueInv := by
    intro u e1 e2 e3 e4 e5 e6 e7
    unfold State.QueueInv offsetInHead at *
    rw [e1, e2, e3, e4, e5, e6, e7]; exact hq
  cases hoo : evalOutcome s
  case emit F rest =>
    unfold evalState; rw [hoo]; simp only
    rw [hoo] at ho
    have hroom : hasRoom s = true := by unfold evalEnabled at hen; rw [hoo] at hen; simpa [hep] using hen
    rw [hasRoom_iff] at hroom
    by_cases c1 : s.ovf = true
    · rw [if_pos c1] at ho; cases ho
    rw [if_neg c1] at ho
    by_cases c2 : s.W.length < 2
    · rw [if_pos c2] at ho; cases ho
    rw [if_neg c2] at ho
    by_cases c3 : s.W.getD 1 0 = 0
    · rw [if_pos c3] at ho; cases ho
    rw [if_neg c3] at ho
    by_cases c4 : s.W.length < (s.W.getD 1 0).toNat + 3
    · rw [if_pos c4] at ho; cases ho
    rw [if_neg c4] at ho
    by_cases c5 : sum8 (s.W.take ((s.W.getD 1 0).toNat + 3)) = 0
    swap
    · rw [if_pos c5] at ho; cases ho
    rw [if_neg (not_not.mpr c5)] at ho
    injection ho with e1 e2
    constructor
    · refine hgen _ rfl rfl rfl rfl ?_ ?_ rfl
      · simp only [evalDone]; rw [e2]
        rcases keptLeftover_cases (s.W.drop ((s.W.getD 1 0).toNat + 3)) with ⟨k, _⟩ | ⟨k, _⟩ <;> rw [k] <;> simp; omega
      · simp only [evalDone]; rw [e2]
        rcases keptLeftover_cases (s.W.drop ((s.W.getD 1 0).toNat + 3)) with ⟨k, k'⟩ | ⟨k, _⟩ <;> rw [k]
        · exact .inr k'
        · exact .inl rfl
    · obtain ⟨q1, q2, q3, q4, q5, q6, q7⟩ := hq
      have hvF : validFrame F = true := by
        rw [validFrame_iff, e1]
        have hg : (List.take ((s.W.getD 1 0).toNat + 3) s.W).getD 1 0 = s.W.getD 1 0 := by
          simp [List.getD_eq_getElem?_getD]
        rw [hg]
        refine ⟨by rw [List.length_take]; omega, ?_, c3, by rw [List.length_take]; omega, c5⟩
        rcases h2 with h2 | h2
        · rw [h2] at c2; simp at c2
        · rw [List.head?_take]; simp [h2]
      unfold State.QueueInv
      simp only [evalDone, enq]
      refine ⟨q1, q2, by omega, by omega, by simp; omega, ?_, ?_⟩
      · intro G hG; rw [List.mem_append] at hG
        rcases hG with hG | hG
        · exact q6 G hG
        · rw [List.mem_singleton] at hG; rw [hG]; exact hvF
      · unfold offsetInHead at *
        cases hQ : s.Q with
        | nil => 
          rw [hQ] at q7; simp at q7
          simp [q7]; have := (validFrame_iff F).mp hvF; omega
        | cons x xs => rw [hQ] at q7; simpa using q7
  all_goals
    unfold evalState; rw [hoo]; simp only
    first
    | exact ⟨hgen _ rfl rfl rfl rfl h1 h2 rfl, hgq _ rfl rfl rfl rfl rfl rfl rfl⟩
    | exact ⟨hgen _ rfl rfl rfl rfl (by simp [evalDone, clearW, raiseErr]) (by simp [evalDone, clearW, raiseErr]) rfl, hgq _ rfl rfl rfl rfl rfl rfl rfl⟩
    | exact ⟨hgen _ rfl rfl rfl rfl h1 h2 rfl, hgq _ rfl rfl rfl rfl rfl rfl rfl⟩
    | exact absurd hoo (evalOutcome_defined s)

/-- STOP_DONE keeps the engine clauses of R31. -/
theorem stopDoneOp_engineInv (s : State) (h : s.EngineInv) (hs : stopEnabled s = true) : (stopDoneOp s).EngineInv := by
  obtain ⟨h1, h2, h3, h4, h5, h6, h7⟩ := h
  rw [stopEnabled_iff] at hs
  obtain ⟨m, r, i, e⟩ := hs
  unfold State.EngineInv stopDoneOp
  exact ⟨h1, h2, h3, h4, fun _ => ⟨i, e, rfl⟩, h6, by simp⟩

/-- WR_CTRL keeps the engine clauses of R31. -/
theorem wrCtrlOp_engineInv (v : Word) (s : State) (h : s.EngineInv) : (wrCtrlOp v s).EngineInv := by
  obtain ⟨h1, h2, h3, h4, h5, h6, h7⟩ := h
  have hc : ∀ m q, (m = Mode.stopped → s.mode = .stopped ∧ q = s.stopReq) → (m = Mode.fail → s.mode = .fail) → ∀ u : State, u.build = s.build → u.W = s.W → u.inRead = s.inRead → u.scanning = s.scanning → u.evalPending = s.evalPending → u.mode = m → u.stopReq = q → u.EngineInv := by
    intro m q hm hf u e1 e2 e3 e4 e5 e6 e7
    unfold State.EngineInv
    rw [e1, e2, e3, e4, e5, e6, e7]
    refine ⟨h1, h2, h3, h4, fun k => ?_, h6, fun k => h7 (hf k)⟩
    obtain ⟨a, b⟩ := hm k
    rw [b]; exact h5 a
  refine hc (wrCtrlOp v s).mode (wrCtrlOp v s).stopReq ?_ ?_ _ (by simp) (by simp) (by simp) (by simp) (by simp) rfl rfl
  · rw [wrCtrlOp_mode, wrCtrlOp_stopReq]
    intro k
    split at k
    · cases k
    · rw [k]; exact ⟨rfl, rfl⟩
  · rw [wrCtrlOp_mode]
    intro k
    split at k
    · cases k
    · exact k

/-- A byte or a frame taken keeps the queue clauses of R31; a commit of the same cycle may come between the offer and the taking. -/
theorem outOp_queueInv {s : State} (u : State) (hv : outValid s = true) {d : Byte} (hb : headByte s = some d)
    (e2 : u.Q = s.Q ∨ ∃ G, validFrame G = true ∧ u.Q = s.Q ++ [G]) (e5 : u.rdCnt = s.rdCnt) (e6 : u.wrSeenC = s.wrSeenC)
    (e7 : u.rdOff = s.rdOff) (hu : u.QueueInv) :
    (headLast s = false → (outByteOp u).QueueInv) ∧ (headLast s = true → (outLastOp u).QueueInv) := by
  obtain ⟨q1, q2, q3, q4, q5, q6, q7⟩ := hu
  rw [outValid_iff] at hv
  obtain ⟨F, rest, hQ⟩ : ∃ F rest, s.Q = F :: rest := by
    cases hq : s.Q with
    | nil => unfold headByte at hb; rw [hq] at hb; cases hb
    | cons F r => exact ⟨F, r, rfl⟩
  obtain ⟨r2, hQ2⟩ : ∃ r2, u.Q = F :: r2 := by
    rcases e2 with e2 | ⟨G, _, e2⟩ <;> rw [e2, hQ]
    · exact ⟨_, rfl⟩
    · exact ⟨rest ++ [G], rfl⟩
  unfold headByte at hb; rw [hQ] at hb; simp at hb
  have hlt : s.rdOff < F.length := by
    rw [List.getElem?_eq_some_iff] at hb; exact hb.1
  unfold headLast; rw [hQ]
  constructor
  · intro hh
    simp at hh
    unfold State.QueueInv outByteOp offsetInHead
    refine ⟨q1, q2, q3, q4, q5, q6, ?_⟩
    simp [hQ2]; omega
  · intro hh
    unfold State.QueueInv outLastOp offsetInHead
    rw [hQ2] at q5 q6
    simp at q5
    refine ⟨?_, ?_, q3, q4, ?_, ?_, ?_⟩
    · simp only; omega
    · simp only; omega
    · rw [hQ2]; simp; omega
    · rw [hQ2]; intro G hG; exact q6 G (List.mem_cons_of_mem _ hG)
    · rw [hQ2]; cases hr2 : r2 with
      | nil => simp
      | cons G r3 =>
        have := q6 G (by simp [hr2])
        rw [validFrame_iff] at this
        simp; omega

/-- The producer's part of a cycle keeps R31 and commits at most one frame, a valid one. -/
theorem producerState_inv (t : Tick) (s : State) (hl : s.build.legal = true) (he : s.EngineInv) (hq : s.QueueInv) :
    (producerState t s).EngineInv ∧ (producerState t s).QueueInv ∧
      ((producerState t s).Q = s.Q ∨ ∃ G, validFrame G = true ∧ (producerState t s).Q = s.Q ++ [G]) := by
  have h1 : (regPart t s).EngineInv := by
    unfold regPart
    have h0 : (startCycle s).EngineInv := engineInv_of_eq he rfl rfl rfl rfl rfl rfl rfl
    cases t.reg with
    | none => exact h0
    | some r =>
      simp only
      split
      · split
        · exact wrCtrlOp_engineInv _ _ h0
        · exact h0
      · exact engineInv_of_eq h0 rfl rfl rfl rfl rfl rfl rfl
  have h2 : (regPart t s).QueueInv := queueInv_of_eq hq (by simp) (by simp) (by simp) (by simp) (by simp) (by simp) (by simp)
  have hm : s.mode = .run → (regPart t s).mode = .run := by
    intro h; rcases regPart_mode t s with h' | h'
    · rw [h', h]
    · exact h'.2
  have hev : (evalPart t s (regPart t s)).EngineInv ∧ (evalPart t s (regPart t s)).QueueInv ∧ ((evalPart t s (regPart t s)).Q = s.Q ∨ ∃ G, validFrame G = true ∧ (evalPart t s (regPart t s)).Q = s.Q ++ [G]) := by
    unfold evalPart
    by_cases hh : (t.evalNow && evalEnabled s) = true
    · rw [if_pos hh]
      rw [Bool.and_eq_true] at hh
      have hen : evalEnabled (regPart t s) = true := by
        have := hh.2
        unfold evalEnabled hasRoom pCount at *
        simpa using this
      have k := evalState_inv _ h1 h2 hen
      refine ⟨k.1, k.2, ?_⟩
      have q6 := k.2.2.2.2.2.2.1
      have hQ : (evalState (regPart t s)).Q = s.Q ∨ ∃ G, (evalState (regPart t s)).Q = s.Q ++ [G] := by
        unfold evalState
        cases evalOutcome (regPart t s) <;> simp
      rcases hQ with hQ | ⟨G, hQ⟩
      · exact .inl hQ
      · exact .inr ⟨G, q6 G (by rw [hQ]; simp), hQ⟩
    · rw [if_neg hh]; exact ⟨h1, h2, .inl (by simp)⟩
  have heng : (enginePart t s (regPart t s)).EngineInv ∧ (enginePart t s (regPart t s)).QueueInv ∧ ((enginePart t s (regPart t s)).Q = s.Q ∨ ∃ G, validFrame G = true ∧ (enginePart t s (regPart t s)).Q = s.Q ++ [G]) := by
    unfold enginePart
    cases t.beat with
    | none => exact hev
    | some w =>
      simp only
      split
      · rename_i hir
        obtain ⟨m, e, _⟩ := (inReady_iff s).mp hir
        exact ⟨beatState_engineInv w _ (by simpa using hl) h1 (hm m) (by simpa using e), queueInv_of_eq h2 (by simp) (by simp) (by simp) (by simp) (by simp) (by simp) (by simp), .inl (by simp)⟩
      · exact hev
  unfold producerState
  refine ⟨?_, queueInv_of_eq heng.2.1 (by simp) (by simp) (by simp) (by simp) (by simp) (by simp) (by simp), by simpa using heng.2.2⟩
  unfold stopPart
  split
  · exact stopDoneOp_engineInv _ heng.1 (by assumption)
  · exact heng.1

/-- Using up a tick keeps R31. -/
theorem advance_inv {s : State} (h : s.Inv) : (advance s).Inv := by
  unfold advance; cases s.pending <;> exact h

/-- The consumer's part of a cycle keeps R31. -/
theorem consumerCycle_inv {t : Tick} {s0 s u : State} (hl : s.build.legal = true) (he : s.EngineInv) (hq : s.QueueInv)
    (e2 : s.Q = s0.Q ∨ ∃ G, validFrame G = true ∧ s.Q = s0.Q ++ [G]) (e5 : s.rdCnt = s0.rdCnt) (e6 : s.wrSeenC = s0.wrSeenC)
    (e7 : s.rdOff = s0.rdOff) (h : consumerCycle t s0 s = .next u) : u.Inv := by
  rcases consumerCycle_next h with ⟨_, rfl⟩ | ⟨_, hv, hlast, ⟨d, hb⟩, rfl⟩ | ⟨_, hv, hlast, ⟨d, hb⟩, rfl⟩
  · exact ⟨hl, he, hq⟩
  · exact ⟨by simpa using hl, engineInv_of_eq he rfl rfl rfl rfl rfl rfl rfl, (outOp_queueInv s hv hb e2 e5 e6 e7 hq).1 hlast⟩
  · exact ⟨by simpa using hl, engineInv_of_eq he rfl rfl rfl rfl rfl rfl rfl, (outOp_queueInv s hv hb e2 e5 e6 e7 hq).2 hlast⟩

end Sys2Proof.Machine
end

