-- ==== Sys2Proof/Laws/Fair.lean ====
section
/-! SUPPORT. Fair runs: what an internal step does when it is taken, what every cycle does to the counts, and that fair runs exist, with every
finite delay of the internal steps (R8, R104, R122). -/

namespace Sys2Proof.Machine

open Sys2Proof

@[simp] theorem nextTick_placed (s : State) (t : Tick) (ts : List Tick) : nextTick { s with pending := t :: ts } = t := rfl
@[simp] theorem evalEnabled_placed (s : State) (ts : List Tick) : evalEnabled { s with pending := ts } = evalEnabled s := rfl
@[simp] theorem stopEnabled_placed (s : State) (ts : List Tick) : stopEnabled { s with pending := ts } = stopEnabled s := rfl
@[simp] theorem internalEnabled_placed (p : InternalStep) (s : State) (ts : List Tick) :
    internalEnabled p { s with pending := ts } = internalEnabled p s := by cases p <;> rfl

/-- A cycle of the internal step's clock (R121, R122). -/
theorem ownCycle_iff (p : InternalStep) (s : State) :
    ownCycle p s = true ↔ (nextTick s).rst = false ∧ (s.build.asyncFifo = true → (nextTick s).edge = internalEdge p) := by
  unfold ownCycle
  cases s.build.asyncFifo <;> simp

/-- STOP_DONE is tested on what the beat or EVAL of the cycle leaves (R107). -/
theorem stopTested_eq (t : Tick) (s : State) : stopTested t s = stopEnabled (enginePart t s (regPart t s)) := by
  unfold stopTested
  rw [performAll_regInstr, andThen_next, performAll_engineInstr]

/-- EVAL is enabled only while one is pending (R103). -/
theorem evalPending_of_enabled {s : State} (h : evalEnabled s = true) : s.evalPending = true := by
  unfold evalEnabled at h; rw [Bool.and_eq_true] at h; exact h.1

/-- While an EVAL is pending the engine's part of a cycle is that EVAL or nothing (R97). -/
theorem enginePart_pending_eval (t : Tick) (s u : State) (h : s.evalPending = true) : enginePart t s u = evalPart t s u := by
  have hi : inReady s = false := by
    cases hr : inReady s
    · rfl
    · have := ((inReady_iff s).mp hr).2.1; rw [h] at this; cases this
  unfold enginePart
  cases t.beat
  · rfl
  · simp [hi]

/-- An EVAL taken leaves none pending, whatever its outcome (R102). -/
theorem evalState_done (s : State) : (evalState s).evalPending = false := by
  have := evalOutcome_defined s
  unfold evalState
  cases h : evalOutcome s <;> first | rfl | exact absurd h this

/-- What a cycle without reset makes of a pending EVAL that is enabled (R103, R104): it is taken and none is pending, or it stays pending with the
working frame. -/
theorem step_eval {s t : State} (hr : (nextTick s).rst = false) (h : step s = .next t) (he : evalEnabled s = true) :
    (internalTaken .eval s = true ∧ t.evalPending = false) ∨
    (internalTaken .eval s = false ∧ t.evalPending = true ∧ t.W = s.W ∧ t.ovf = s.ovf ∧ t.wrCnt = s.wrCnt) := by
  have hp := evalPending_of_enabled he
  by_cases hc : s.build.asyncFifo = true → (nextTick s).edge = .clkP
  · have ho : ownCycle .eval s = true := (ownCycle_iff _ s).mpr ⟨hr, hc⟩
    obtain ⟨_, hW, _, _, hv, he', _, hw, _⟩ := step_producer hr hc h
    rw [hW, hv, he', hw]
    unfold producerState
    rw [enginePart_pending_eval _ _ _ (by simpa using hp)]
    unfold evalPart internalTaken
    rw [ho]
    cases hn : (nextTick s).evalNow
    · refine .inr ⟨by simp, ?_⟩; simp [hp]
    · refine .inl ⟨by simp [he], ?_⟩; simp [he, evalState_done]
  · have ho : internalTaken .eval s = false := by
      unfold internalTaken
      have : ownCycle .eval s = false := by
        rw [Bool.eq_false_iff]; exact fun k => hc ((ownCycle_iff _ s).mp k).2
      rw [this]; rfl
    refine .inr ⟨ho, ?_⟩
    rcases step_next_cases hr h with ⟨a, _⟩ | ⟨_, a, _⟩ | ⟨_, _, u, hu, rfl⟩
    · exact absurd (fun k => by rw [a] at k; cases k) hc
    · exact absurd (fun _ => a) hc
    · rcases consumerCycle_next hu with ⟨_, rfl⟩ | ⟨_, _, _, _, rfl⟩ | ⟨_, _, _, _, rfl⟩ <;> simp [hp]

/-- The producer's part of a cycle commits at most one frame (R112). -/
theorem producerState_wrCnt (t : Tick) (s : State) : s.wrCnt ≤ (producerState t s).wrCnt := by
  have hev : ∀ u : State, u.wrCnt ≤ (evalState u).wrCnt := by
    intro u; unfold evalState; cases evalOutcome u <;> simp
  unfold producerState enginePart evalPart
  cases t.beat <;> simp only [stopPart_wrCnt] <;> (repeat' split) <;> simp <;> exact Nat.le_trans (by simp) (hev _)

/-- No count falls without a reset (R57), and the synchronization steps of the cycle do what R119 to R121 say. -/
theorem step_counts {s t : State} (hi : s.Inv) (hr : (nextTick s).rst = false) (h : step s = .next t) :
    s.wrCnt ≤ t.wrCnt ∧ s.rdCnt ≤ t.rdCnt ∧ s.wrSeenC ≤ t.wrSeenC ∧ s.rdSeenP ≤ t.rdSeenP ∧
    (internalTaken .syncP2c s = true → s.wrSeenC < t.wrSeenC ∨ s.wrCnt ≤ t.wrSeenC) ∧
    (internalTaken .syncC2p s = true → s.rdSeenP < t.rdSeenP ∨ s.rdCnt ≤ t.rdSeenP) := by
  obtain ⟨_, _, q1, q2, q3, -⟩ := hi
  have hw := producerState_wrCnt (nextTick s) (advance s)
  rw [advance_wrCnt] at hw
  rcases step_next_cases hr h with ⟨ha, u, hu, rfl⟩ | ⟨ha, he, rfl⟩ | ⟨ha, he, u, hu, rfl⟩
  · rcases consumerCycle_next hu with ⟨_, rfl⟩ | ⟨_, _, _, _, rfl⟩ | ⟨_, _, _, _, rfl⟩ <;>
      simp only [syncAll, outByteOp, outLastOp, producerState_rdCnt, advance_rdCnt] <;>
      refine ⟨hw, by omega, by omega, by omega, fun _ => .inr hw, fun _ => .inr (by omega)⟩
  · refine ⟨by simpa using hw, by simp, by simp, ?_, ?_, ?_⟩
    · unfold c2pPart; (repeat' split) <;> simp_all [c2pEnabled, syncC2pOp]; omega
    · unfold internalTaken ownCycle; simp [ha, he, internalEdge]
    · unfold internalTaken syncTaken c2pPart
      cases (nextTick s).syncC2p <;> simp [ha]
      intro _ hv
      left
      have : c2pEnabled ‹Nat› (advance s) = true := by simpa [c2pEnabled] using hv
      rw [if_pos this]; simp [c2pEnabled] at hv; simp [syncC2pOp, hv]
  · have hu' : s.wrCnt ≤ u.wrCnt ∧ s.rdCnt ≤ u.rdCnt ∧ u.wrSeenC = s.wrSeenC ∧ u.rdSeenP = s.rdSeenP := by
      rcases consumerCycle_next hu with ⟨_, rfl⟩ | ⟨_, _, _, _, rfl⟩ | ⟨_, _, _, _, rfl⟩ <;> simp [outByteOp, outLastOp]
    refine ⟨by simpa using hu'.1, by simpa using hu'.2.1, ?_, by simp [hu'.2.2.2], ?_, ?_⟩
    · unfold p2cPart; (repeat' split) <;> simp_all [p2cEnabled, syncP2cOp]; omega
    · unfold internalTaken syncTaken p2cPart
      cases (nextTick s).syncP2c <;> simp [ha]
      intro _ hv
      left
      have : p2cEnabled ‹Nat› (advance s) = true := by simpa [p2cEnabled] using hv
      rw [if_pos this]; simp [p2cEnabled] at hv; simp [syncP2cOp, hv]
    · unfold internalTaken ownCycle; simp [ha, he, internalEdge]

/-- A cycle in which the consumer accepts nothing gives a next state of the same build, in every state of a legal build. -/
theorem step_next_of_noOutput (s : State) (hl : s.build.legal = true) (ho : (nextTick s).outReady = false) :
    ∃ t, step s = .next t ∧ t.build = s.build := by
  have hc : ∀ u, consumerCycle (nextTick s) (advance s) u = .next u := by intro u; simp [consumerCycle, ho]
  rw [step_eq s hl]
  (repeat' split) <;> simp [hc, resetOp, State.resetOf]

/-- The offers of a run that lets the internal steps wait for `delay` cycles and then takes each as soon as it is enabled; with two clocks the
edges alternate. -/
def delayedTick (delay n : Nat) (s : State) : Tick :=
  { Tick.idle with
    edge := if n % 2 = 0 then .clkP else .clkC
    evalNow := decide (delay ≤ n)
    syncC2p := if delay ≤ n then some s.rdCnt else none
    syncP2c := if delay ≤ n then some s.wrCnt else none }

/-- The run of these offers from `s`. -/
def delayedRun (delay : Nat) (s : State) : Nat → State
  | 0 => { s with pending := [delayedTick delay 0 s] }
  | n + 1 =>
    match step (delayedRun delay s n) with
    | .next t => { t with pending := [delayedTick delay (n + 1) t] }
    | .fault _ => delayedRun delay s n
    | .refused _ => delayedRun delay s n

/-- Each cycle of the run: what it offers, and where it leads. -/
theorem delayedRun_step (delay : Nat) (s : State) (hl : s.build.legal = true) (n : Nat) :
    (delayedRun delay s n).build = s.build ∧ nextTick (delayedRun delay s n) = delayedTick delay n (delayedRun delay s n) ∧
    ∃ t, step (delayedRun delay s n) = .next t ∧ delayedRun delay s (n + 1) = { t with pending := [delayedTick delay (n + 1) t] } := by
  have hs : ∀ m, (delayedRun delay s m).build = s.build →
      nextTick (delayedRun delay s m) = delayedTick delay m (delayedRun delay s m) →
      ∃ t, step (delayedRun delay s m) = .next t ∧ t.build = s.build ∧
        delayedRun delay s (m + 1) = { t with pending := [delayedTick delay (m + 1) t] } := by
    intro m hb ht
    obtain ⟨t, h, hb'⟩ := step_next_of_noOutput (delayedRun delay s m) (by rw [hb]; exact hl) (by rw [ht]; rfl)
    exact ⟨t, h, hb'.trans hb, by simp [delayedRun, h]⟩
  have hn : (delayedRun delay s n).build = s.build ∧ nextTick (delayedRun delay s n) = delayedTick delay n (delayedRun delay s n) := by
    induction n with
    | zero => exact ⟨rfl, rfl⟩
    | succ n ih =>
      obtain ⟨t, _, hb, he⟩ := hs n ih.1 ih.2
      rw [he]; exact ⟨hb, rfl⟩
  obtain ⟨t, h, _, he⟩ := hs n hn.1 hn.2
  exact ⟨hn.1, hn.2, t, h, he⟩

/-- Each clock has an edge in every two cycles of the run. -/
theorem delayedRun_ownCycle (delay : Nat) (s : State) (hl : s.build.legal = true) (p : InternalStep) (m : Nat) :
    ∃ k, m ≤ k ∧ k ≤ m + 1 ∧ ownCycle p (delayedRun delay s k) = true := by
  have h : ∀ k, ((if k % 2 = 0 then Edge.clkP else .clkC) = internalEdge p) → ownCycle p (delayedRun delay s k) = true := by
    intro k hk
    rw [ownCycle_iff, (delayedRun_step delay s hl k).2.1]
    exact ⟨rfl, fun _ => hk⟩
  rcases Nat.mod_two_eq_zero_or_one m with hm | hm
  · have hm' : (m + 1) % 2 = 1 := by omega
    cases p
    case syncP2c => exact ⟨m + 1, by omega, by omega, h _ (by rw [hm']; rfl)⟩
    all_goals exact ⟨m, by omega, by omega, h _ (by rw [hm]; rfl)⟩
  · have hm' : (m + 1) % 2 = 0 := by omega
    cases p
    case syncP2c => exact ⟨m, by omega, by omega, h _ (by rw [hm]; rfl)⟩
    all_goals exact ⟨m + 1, by omega, by omega, h _ (by rw [hm']; rfl)⟩

/-- After the delay an enabled internal step is taken in every cycle of its clock. -/
theorem delayedRun_taken (delay : Nat) (s : State) (hl : s.build.legal = true) (p : InternalStep) (k : Nat) (hk : delay ≤ k)
    (ho : ownCycle p (delayedRun delay s k) = true) (he : internalEnabled p (delayedRun delay s k) = true) :
    internalTaken p (delayedRun delay s k) = true := by
  unfold internalTaken
  rw [ho, (delayedRun_step delay s hl k).2.1]
  generalize delayedRun delay s k = u at *
  cases p
  · have hs : evalEnabled u = true := he
    simp [delayedTick, hk, hs]
  · have hs : stopEnabled u = true := he
    have hp : u.evalPending = false := by unfold stopEnabled at hs; simp at hs; exact hs.2
    have hev : evalEnabled u = false := by unfold evalEnabled; simp [hp]
    simp only [Bool.true_and, stopTested_eq]
    simpa [delayedTick, Tick.idle, enginePart, evalPart, hev, regPart, stopEnabled, startCycle] using hs
  · have hs : u.rdSeenP < u.rdCnt := by simpa [internalEnabled] using he
    simp [syncTaken, delayedTick, hk, c2pEnabled, hs]
  · have hs : u.wrSeenC < u.wrCnt := by simpa [internalEnabled] using he
    simp [syncTaken, delayedTick, hk, p2cEnabled, hs]

/-- The run is fair. -/
theorem delayedRun_fair (delay : Nat) (s : State) (hl : s.build.legal = true) : FairRun (delayedRun delay s) := by
  refine ⟨fun n => ?_, fun p n he _ => ?_⟩
  · obtain ⟨_, _, t, h, h'⟩ := delayedRun_step delay s hl n
    exact ⟨t, _, h, h'⟩
  · obtain ⟨k, h1, _, ho⟩ := delayedRun_ownCycle delay s hl p (max n delay)
    exact ⟨k, by omega, delayedRun_taken delay s hl p k (by omega) ho (he k (by omega))⟩

/-- Fair runs exist, and every finite delay is the delay of one (R8, R104, R122): from every state of a legal build there is a fair run without
reset in which all clocks run and in whose first `delay` cycles neither EVAL nor, with two clocks, a synchronization step is taken. -/
theorem exists_fairRun (delay : Nat) (s : State) (hl : s.build.legal = true) :
    ∃ run, FairRun run ∧ (∃ offers, run 0 = { s with pending := offers }) ∧ (∀ k, (nextTick (run k)).rst = false) ∧
      (∀ p, ClockRuns p run) ∧
      ∀ k, k < delay → internalTaken .eval (run k) = false ∧
        (s.build.asyncFifo = true → internalTaken .syncC2p (run k) = false ∧ internalTaken .syncP2c (run k) = false) := by
  refine ⟨delayedRun delay s, delayedRun_fair delay s hl, ⟨_, rfl⟩, fun k => ?_, fun p m => ?_, fun k hk => ?_⟩
  · rw [(delayedRun_step delay s hl k).2.1]; rfl
  · obtain ⟨k, h1, _, ho⟩ := delayedRun_ownCycle delay s hl p m
    exact ⟨k, h1, ho⟩
  · obtain ⟨hb, ht, _⟩ := delayedRun_step delay s hl k
    have hd : ¬ delay ≤ k := by omega
    unfold internalTaken syncTaken
    rw [ht, hb]
    simp +contextual [delayedTick, hd]

end Sys2Proof.Machine
end

