-- ==== Sys2Proof/Laws/PerInstr.lean ====
section
/-! SUPPORT. One lemma per operation: its word, when it has one, matches the pattern of its row in spec/opcode_table.json, and the
operations without a word are the rows without a pattern (R74). -/

namespace Sys2Proof.Laws.TableRow

open Sys2Proof

/-- The word of `i` agrees with `match` under `mask` of its row; no word, no pattern. -/
def Statement (i : Instr) : Prop :=
  match encode i, i.tableRow with
  | some p, some (pattern, mask) => p.tableBits &&& mask = pattern
  | none, none => True
  | some _, none => False
  | none, some _ => False

/-- The nine bits of a two-part word, masked at the upper bit. -/
theorem append_and_upper (b : BitVec 1) (x : Byte) : (b ++ x).toNat &&& 0x100 = b.toNat * 256 := by
  revert b x; decide

/-- The ten bits of an input beat whose error bit is clear, masked at the upper two. -/
theorem append_and_upper_two (b : BitVec 2) (x : Byte) : (b ++ x).toNat &&& 0x300 = b.toNat * 256 := by
  revert b x; decide

/-- The ten bits of a failed beat, masked at the error bit. -/
theorem append_and_error (x : BitVec 9) : ((0b1#1) ++ x).toNat &&& 0x200 = 0x200 := by
  revert x; decide

theorem inByte (d : Byte) : Statement (.inByte d) := append_and_upper_two 0b00 d
theorem inLast (d : Byte) : Statement (.inLast d) := append_and_upper_two 0b01 d
theorem inErr (x : BitVec 9) : Statement (.inErr x) := append_and_error x
theorem outByte (d : Byte) : Statement (.outByte d) := append_and_upper (BitVec.ofBool false) d
theorem outLast (d : Byte) : Statement (.outLast d) := append_and_upper (BitVec.ofBool true) d
theorem wrCtrl (v : Word) : Statement (.wrCtrl v) := by show (regHeader true 0x00).toNat &&& 0x1FF = 0x100; decide
theorem wrIgnored (a : Byte) (v : Word) : Statement (.wrIgnored a v) := append_and_upper (BitVec.ofBool true) a
theorem rdCtrl : Statement .rdCtrl := rfl
theorem rdStatus : Statement .rdStatus := rfl
theorem rdQcount : Statement .rdQcount := rfl
theorem rdWpos : Statement .rdWpos := rfl
theorem rdCntFrames : Statement .rdCntFrames := rfl
theorem rdCntZlen : Statement .rdCntZlen := rfl
theorem rdCntCsum : Statement .rdCntCsum := rfl
theorem rdCntOvf : Statement .rdCntOvf := rfl
theorem rdParams : Statement .rdParams := rfl
theorem rdId : Statement .rdId := rfl
theorem rdRsvd (a : Byte) : Statement (.rdRsvd a) := append_and_upper (BitVec.ofBool false) a
theorem eval : Statement .eval := trivial
theorem stopDone : Statement .stopDone := trivial
theorem syncP2c (v : Nat) : Statement (.syncP2c v) := trivial
theorem syncC2p (v : Nat) : Statement (.syncC2p v) := trivial
theorem reset : Statement .reset := trivial

end Sys2Proof.Laws.TableRow
end

