-- ==== Sys2Proof/Laws/Reads.lean ====
section
/-! SUPPORT. Delivering reads: what a read leaves in the working frame, and what its EVAL does with it while the frame is incomplete. -/

namespace Sys2Proof.Machine

open Sys2Proof

/-- The beats of a read can be accepted one after another, and nothing of it was dropped (R97). -/
abbrev State.Accepting (s : State) : Prop := s.mode = .run ∧ s.evalPending = false ∧ s.stopReq = false ∧ s.ovf = false

/-- Accepting states have `in_ready = 1` (R97). -/
theorem inReady_of_accepting {s : State} (h : State.Accepting s) : inReady s = true := by
  rw [inReady_iff]; exact ⟨h.1, h.2.1, by simp [h.2.2.1]⟩

/-- A read that is not scanned and fits is appended whole (R99, R100). -/
theorem deliverRead_append (r : List Byte) : ∀ s : State, State.Accepting s → scans s = false → s.W.length + r.length ≤ s.build.bufBytes → r ≠ [] →
    deliverRead r s = .next { s with W := s.W ++ r, inRead := false, scanning := false, evalPending := true } := by
  induction r with
  | nil => intro s _ _ _ h; exact absurd rfl h
  | cons d r ih =>
    intro s hb hsc hl _
    have hir := inReady_of_accepting hb
    have hab : absorb d s = { s with scanning := false, W := s.W ++ [d] } := by
      rcases absorb_cases d s with ⟨a, _⟩ | ⟨a, _⟩ | ⟨a, b, c⟩ | ⟨a, b, c, e⟩
      · rw [a] at hsc; cases hsc
      · rw [a] at hsc; cases hsc
      · rcases b with b | b
        · rw [hb.2.2.2] at b; cases b
        · simp at hl; omega
      · exact e
    cases r with
    | nil => 
      simp only [deliverRead, exec, execInLast, hir, gated_true, inLastOp, hab]
    | cons e r =>
      have h1 : exec (.inByte d) s = .next { s with scanning := false, W := s.W ++ [d], inRead := true } := by
        simp only [exec, execInByte, hir, gated_true, inByteOp, hab]
      rw [deliverRead, h1, andThen_next, ih]
      · simp
      · exact hb
      · simp [scans]
      · simp at hl ⊢; omega
      · simp

/-- A scanned read that begins with the sentinel and fits becomes the working frame (R98). -/
theorem deliverRead_sentinel (r : List Byte) (s : State) (hb : State.Accepting s) (hi : s.inRead = false) (hw : s.W = [])
    (hh : r.head? = some 0x13) (hl : r.length ≤ s.build.bufBytes) :
    deliverRead r s = .next { s with W := r, inRead := false, scanning := false, evalPending := true } := by
  have hir := inReady_of_accepting hb
  have hsc : scans s = true := by rw [scans_iff]; exact .inl ⟨hi, hw⟩
  match r, hh with
  | d :: r, hh =>
  have hd : d = Config.sentinel := by rw [List.head?_cons, Option.some.injEq] at hh; exact hh
  have hab : absorb d s = { s with scanning := false, W := [d] } := by
    rcases absorb_cases d s with ⟨a, b, _⟩ | ⟨a, _, c⟩ | ⟨a, _⟩ | ⟨a, _⟩
    · exact absurd hd b
    · rw [c, hd]
    · rw [a] at hsc; cases hsc
    · rw [a] at hsc; cases hsc
  cases r with
  | nil => simp only [deliverRead, exec, execInLast, hir, gated_true, inLastOp, hab]
  | cons e r =>
    have h1 : exec (.inByte d) s = .next { s with scanning := false, W := [d], inRead := true } := by
        simp only [exec, execInByte, hir, gated_true, inByteOp, hab]
    rw [deliverRead, h1, andThen_next, deliverRead_append]
    · simp
    · exact hb
    · simp [scans]
    · simp at hl ⊢; omega
    · simp

/-- One read of a frame of which `pre` has arrived. -/
theorem deliverRead_one (pre r : List Byte) (s : State) (hs : s.IdleRun) (hr : r ≠ []) (hh : (pre ++ r).head? = some 0x13)
    (hl : (pre ++ r).length ≤ s.build.bufBytes) :
    deliverRead r { s with W := pre } = .next { s with W := pre ++ r, evalPending := true } := by
  obtain ⟨m, w, i, sc, o, e, st⟩ := hs
  have hb : State.Accepting { s with W := pre } := ⟨m, e, st, o⟩
  cases pre with
  | nil =>
    rw [deliverRead_sentinel r _ hb i rfl (by simpa using hh) (by simpa using hl)]
    simp [i, sc]
  | cons x xs =>
    rw [deliverRead_append r _ hb (by simp [scans, i]) (by rw [List.length_append] at hl; exact hl) hr]
    simp [i, sc]

/-- EVAL of a proper beginning of a frame is NOLEN or WAIT and leaves all but `evalPending` (R102). -/
theorem exec_eval_of_prefix (s : State) (hep : s.evalPending = true) (hov : s.ovf = false) (F : List Byte)
    (hF : F.length = (F.getD 1 0).toNat + 3) (hz : F.getD 1 0 ≠ 0) (pre rest : List Byte) (hw : s.W = pre)
    (hpr : pre ++ rest = F) (hne : rest ≠ []) : exec .eval s = .next { s with evalPending := false } := by
  have hlen : pre.length < F.length := by
    rw [← hpr, List.length_append]; have := List.length_pos_of_ne_nil hne; omega
  have ho := evalOutcome_eq s
  rw [if_neg (by simp [hov])] at ho
  have key : evalOutcome s = .nolen ∨ evalOutcome s = .wait := by
    by_cases c2 : s.W.length < 2
    · rw [if_pos c2] at ho; exact .inl ho
    · rw [if_neg c2] at ho
      have hg : s.W.getD 1 0 = F.getD 1 0 := by
        rw [← hpr, hw]; rw [hw] at c2
        simp [List.getD_eq_getElem?_getD, List.getElem?_append_left (show 1 < pre.length by omega)]
      rw [hg, if_neg hz, if_pos (by rw [hw]; omega)] at ho
      exact .inr ho
  rcases key with k | k <;> simp only [exec, execEval, evalEnabled, k, hep, Bool.and_true, gated_true, evalOp] <;> rfl

/-- A frame fits the buffer of a legal build (R7). -/
theorem frame_length_le (F : List Byte) (s : State) (hl : s.build.legal = true) (hF : F.length = (F.getD 1 0).toNat + 3) :
    F.length ≤ s.build.bufBytes := by
  have := (F.getD 1 0).isLt
  simp [Config.Build.legal] at hl; omega

/-- Reads that hold a proper part of a frame accumulate it in `W` and do nothing else (R110). -/
theorem deliverReads_prefix (F : List Byte) (s : State) (hs : s.IdleRun) (hl : s.build.legal = true) (hh : F.head? = some 0x13)
    (hz : F.getD 1 0 ≠ 0) (hF : F.length = (F.getD 1 0).toNat + 3) :
    ∀ (before : List (List Byte)) (pre rest : List Byte), pre ++ before.flatten ++ rest = F → (∀ r ∈ before, r ≠ []) → rest ≠ [] →
      deliverReads before { s with W := pre } = .next { s with W := pre ++ before.flatten } := by
  intro before
  induction before with
  | nil => intro pre rest _ _ _; simp [deliverReads]
  | cons r before ih =>
    intro pre rest hF' hne hr
    have hrne := hne r (by simp)
    have hF2 : pre ++ r ++ (before.flatten ++ rest) = F := by rw [← hF']; simp
    have hle := frame_length_le F s hl hF
    have hpre : (pre ++ r) ≠ [] := by simp [hrne]
    rw [deliverReads, deliverRead_one pre r s hs hrne, andThen_next]
    · rw [exec_eval_of_prefix { s with W := pre ++ r, evalPending := true } rfl hs.2.2.2.2.1 F hF hz (pre ++ r) (before.flatten ++ rest) rfl hF2 (by simp [hr]), andThen_next]
      have := ih (pre ++ r) rest (by rw [← hF']; simp) (fun x hx => hne x (by simp [hx])) hr
      simp only [List.flatten_cons]
      rw [← List.append_assoc]
      have e := hs.2.2.2.2.2.1
      convert this using 2
      · simp [e]
    · rw [← hF2] at hh
      rw [List.head?_append_of_ne_nil _ hpre] at hh; exact hh
    · rw [← hF2, List.length_append] at hle; omega

/-- Delivering reads in two parts. -/
theorem deliverReads_append (a b : List (List Byte)) : ∀ s, deliverReads (a ++ b) s = andThen (deliverReads a s) (deliverReads b) := by
  induction a with
  | nil => intro s; rfl
  | cons r a ih =>
    intro s
    simp only [List.cons_append, deliverReads]
    cases andThen (deliverRead r s) (exec .eval) with
    | next u => simp only [andThen_next]; exact ih u
    | fault e => rfl
    | refused e => rfl

/-- Once a read does not fit, the rest of it is dropped (R99 (c)). -/
theorem deliverRead_overlong (r : List Byte) : ∀ s : State, s.mode = .run → s.evalPending = false → s.stopReq = false → scans s = false →
    r ≠ [] → s.build.bufBytes < s.W.length + r.length → s.W ≠ [] → s.W.length ≤ s.build.bufBytes →
    ∃ V, V ≠ [] ∧
      deliverRead r s = .next { s with W := V, inRead := false, scanning := false, ovf := true, evalPending := true } := by
  induction r with
  | nil => intro s _ _ _ _ h; exact absurd rfl h
  | cons d r ih =>
    intro s hm hep hst hsc _ hl hw hle
    have hir : inReady s = true := by rw [inReady_iff]; exact ⟨hm, hep, by simp [hst]⟩
    by_cases hfull : s.ovf = true ∨ s.W.length = s.build.bufBytes
    · have hab : absorb d s = { s with scanning := false, ovf := true } := by simp [absorb, hsc, hfull]
      clear ih
      -- everything dropped
      have hdrop : ∀ (r : List Byte) (d : Byte) (s : State), s.mode = .run → s.evalPending = false → s.stopReq = false → scans s = false → (s.ovf = true ∨ s.W.length = s.build.bufBytes) →
          deliverRead (d :: r) s = .next { s with inRead := false, scanning := false, ovf := true, evalPending := true } := by
        intro r
        induction r with
        | nil =>
          intro d s hm hep hst hsc hf
          have hir : inReady s = true := by rw [inReady_iff]; exact ⟨hm, hep, by simp [hst]⟩
          have hab : absorb d s = { s with scanning := false, ovf := true } := by simp [absorb, hsc, hf]
          simp only [deliverRead, exec, execInLast, hir, gated_true, inLastOp, hab]
        | cons e r ih =>
          intro d s hm hep hst hsc hf
          have hir : inReady s = true := by rw [inReady_iff]; exact ⟨hm, hep, by simp [hst]⟩
          have hab : absorb d s = { s with scanning := false, ovf := true } := by simp [absorb, hsc, hf]
          have h1 : exec (.inByte d) s = .next { s with scanning := false, ovf := true, inRead := true } := by
            simp only [exec, execInByte, hir, gated_true, inByteOp, hab]
          rw [deliverRead, h1, andThen_next, ih]
          · exact hm
          · exact hep
          · exact hst
          · simp [scans]
          · exact .inl rfl
      exact ⟨s.W, hw, hdrop r d s hm hep hst hsc hfull⟩
    · have hab : absorb d s = { s with scanning := false, W := s.W ++ [d] } := by
        simp [absorb, hsc]; exact ⟨by simpa using (not_or.mp hfull).1, (not_or.mp hfull).2⟩
      cases r with
      | nil => exfalso; simp at hl; omega
      | cons e r =>
        have h1 : exec (.inByte d) s = .next { s with scanning := false, W := s.W ++ [d], inRead := true } := by
          simp only [exec, execInByte, hir, gated_true, inByteOp, hab]
        obtain ⟨W', hW', h2⟩ := ih { s with scanning := false, W := s.W ++ [d], inRead := true } hm hep hst (by simp [scans]) (by simp) (by simp at hl ⊢; omega) (by simp) (by simp; omega)
        refine ⟨W', hW', ?_⟩
        rw [deliverRead, h1, andThen_next, h2]

end Sys2Proof.Machine
end

