-- ==== Sys2Proof/Tests/Notation.lean ====
section
/-! SUPPORT. The test notation of R78 to R81: lines, their expansion, and performing a line in the first cycle in which the block is
ready for it. -/

namespace Sys2Proof.Tests

open Sys2Proof Sys2Proof.Machine

/-- A test line (R78). -/
inductive Line where
  | rst
  | inb (d : Byte)
  | inl (d : Byte)
  | inerr
  | out
  | wr (addr : Byte) (v : Word)
  | rd (addr : Byte)
  | settle
  deriving DecidableEq, Repr

/-- `IN b0 b1 ... bk`, one read (R79 (a)). -/
def readLines : List Byte → List Line
  | [] => []
  | [d] => [.inl d]
  | d :: ds => .inb d :: readLines ds

/-- `FRAME(p0 ... pn)` (R79 (b)). -/
def frameOf (payload : List Byte) : List Byte :=
  let b := Config.sentinel :: BitVec.ofNat 8 payload.length :: payload
  b ++ (calculateChecksum b 0 b.length).toList

/-- The cycle in which a port operation is offered, in its own cycle (R80); an EVAL that is enabled instead is taken. -/
def Line.tick (l : Line) : Tick :=
  let quiet := { Tick.idle with evalNow := true }
  match l with
  | .rst => { quiet with rst := true }
  | .inb d => { quiet with beat := some (0b00#2 ++ d) }
  | .inl d => { quiet with beat := some (0b01#2 ++ d) }
  | .inerr => { quiet with beat := some 0x200 }
  | .out => { quiet with edge := .clkC, outReady := true }
  | .wr a v => { quiet with reg := some ⟨true, a, v⟩ }
  | .rd a => { quiet with reg := some ⟨false, a, 0⟩ }
  | .settle => quiet

/-- The block is ready for the line's operation (R80). -/
def Line.performed (l : Line) (s : State) : Bool :=
  match l with
  | .rst => true
  | .inb _ => inReady s
  | .inl _ => inReady s
  | .inerr => inReady s
  | .out => outValid s
  | .wr _ _ => true
  | .rd _ => true
  | .settle => true

/-- A step whose tick is this one. -/
def stepWith (t : Tick) (s : State) : Result := step (placeTick t s)

/-- One cycle (or one edge of each clock) with no port operation and every internal step at its earliest and furthest. -/
def settleRound (s : State) : Result :=
  andThen (stepWith { Tick.idle with edge := .clkP, evalNow := true, syncC2p := some s.rdCnt } s) fun s =>
  stepWith { Tick.idle with edge := .clkC, evalNow := true, syncP2c := some s.wrCnt } s

/-- A line, offered for at most `fuel` cycles; SETTLE runs `fuel` rounds. -/
def runLine : Nat → Line → State → Result
  | 0, _, s => .next s
  | n + 1, .settle, s => andThen (settleRound s) (runLine n .settle)
  | n + 1, l, s => if l.performed s then stepWith l.tick s else andThen (stepWith l.tick s) (runLine n l)

/-- The lines of a program, in the order written. -/
def runLines (fuel : Nat) : List Line → State → Result
  | [], s => .next s
  | l :: ls, s => andThen (runLine fuel l s) (runLines fuel ls)

end Sys2Proof.Tests
end

