-- ==== Sys2Proof/Tests/Slice0.lean ====
section
/-! SUPPORT. Tests: well-formedness, decoding of words written out from the spec, single operations with results from the spec's
examples and test vectors, and one witness per statement with hypotheses. -/

namespace Sys2Proof.Tests

open Sys2Proof Sys2Proof.Machine

/-! ## States the tests start from -/

/-- After reset and `WR CTRL, START` (R129). -/
def running : State := { State.reset with mode := .run }

/-- Running, between reads, with a working frame. -/
def holding (W : List Byte) : State := { running with W := W }

/-- Running, in a read, with a working frame. -/
def reading (W : List Byte) : State := { running with W := W, inRead := true }

/-- Running, a read has ended. -/
def ended (W : List Byte) : State := { running with W := W, evalPending := true }

/-- The smallest frame with a payload (R91's example). -/
def frame : List Byte := [0x13, 0x01, 0x07, 0xE5]

/-- The same with its checksum off by one (R136's example). -/
def badFrame : List Byte := [0x13, 0x01, 0x07, 0xE4]

/-- One frame in the queue, seen by both domains, its first `off` bytes taken. -/
def queued (off : Nat) : State := { running with Q := [frame], wrCnt := 1, wrSeenC := 1, rdOff := off }

/-- The smallest legal build, with two clocks. -/
def smallest : Config.Build := ⟨258, 1, true⟩

/-- The largest legal build, with one clock. -/
def largest : Config.Build := ⟨65535, 255, false⟩

/-- A queue of depth one that is full, with a valid frame waiting for EVAL. -/
def blocked (asyncFifo : Bool) : State :=
  { queued 0 with build := ⟨258, 1, asyncFifo⟩, W := frame, evalPending := true }

/-- What an operation leaves in one place. -/
def after {α : Type} (r : Result) (f : State → α) : Option α := (nextOf r).map f

/-- A state whose next cycle is this one. -/
def offering (s : State) (t : Tick) : State := placeTick t s

/-! ## Well-formedness: an ill-formed term for each check -/

/-- R72: a write to 0x00 is WR_CTRL, never WR_IGNORED. -/
theorem test_wf_wrIgnored : (Instr.wrIgnored 0x00 5).wf = false ∧ (Instr.wrIgnored 0x01 5).wf = true := by decide

/-- R72: an address that names a register is never RD_RSVD. -/
theorem test_wf_rdRsvd : (namedAddresses.all fun a => (Instr.rdRsvd a).wf = false) = true ∧ (Instr.rdRsvd 0x28).wf = true := by decide

/-! ## Decoding, each word written out from R68, R69, R72 -/

theorem test_decode_inByte : decode (.input 0b00_00010011#10) = .inByte 0x13 := by decide
theorem test_decode_inLast : decode (.input 0b01_11100101#10) = .inLast 0xE5 := by decide
/-- R78 writes INERR as 0x200; R75 (a) lets bit 8 and the data be anything. -/
theorem test_decode_inErr : decode (.input 0b10_00000000#10) = .inErr 0 ∧ decode (.input 0b11_11111111#10) = .inErr 0x1FF := by decide
theorem test_decode_outByte : decode (.output 0b0_00010011#9) = .outByte 0x13 := by decide
theorem test_decode_outLast : decode (.output 0b1_11100101#9) = .outLast 0xE5 := by decide
theorem test_decode_wrCtrl : decode (.register 0b1_00000000#9 0x5) = .wrCtrl 0x5 := by decide
/-- R128's example writes 0x10; R40: an address with bits 1:0 not 00 too. -/
theorem test_decode_wrIgnored :
    decode (.register 0b1_00010000#9 0) = .wrIgnored 0x10 0 ∧ decode (.register 0b1_00000001#9 7) = .wrIgnored 0x01 7 := by decide
theorem test_decode_rdCtrl : decode (.register 0b0_00000000#9 0) = .rdCtrl := by decide
theorem test_decode_rdStatus : decode (.register 0b0_00000100#9 0) = .rdStatus := by decide
theorem test_decode_rdQcount : decode (.register 0b0_00001000#9 0) = .rdQcount := by decide
theorem test_decode_rdWpos : decode (.register 0b0_00001100#9 0) = .rdWpos := by decide
theorem test_decode_rdCntFrames : decode (.register 0b0_00010000#9 0) = .rdCntFrames := by decide
theorem test_decode_rdCntZlen : decode (.register 0b0_00010100#9 0) = .rdCntZlen := by decide
theorem test_decode_rdCntCsum : decode (.register 0b0_00011000#9 0) = .rdCntCsum := by decide
theorem test_decode_rdCntOvf : decode (.register 0b0_00011100#9 0) = .rdCntOvf := by decide
theorem test_decode_rdParams : decode (.register 0b0_00100000#9 0) = .rdParams := by decide
theorem test_decode_rdId : decode (.register 0b0_00100100#9 0) = .rdId := by decide
/-- R140's examples: 0x28 and 0x05. -/
theorem test_decode_rdRsvd :
    decode (.register 0b0_00101000#9 0) = .rdRsvd 0x28 ∧ decode (.register 0b0_00000101#9 0) = .rdRsvd 0x05 := by decide
/-- R74: no word for an internal step. -/
theorem test_encode_internal :
    encode .eval = none ∧ encode .stopDone = none ∧ encode (.syncP2c 1) = none ∧ encode (.syncC2p 1) = none ∧ encode .reset = none := by
  decide
/-- R68 to R70: ten bits on the input channel, nine on the others. -/
theorem test_decode_too_wide :
    decodeWord .input 0x3FF = .ok (.inErr 0x1FF) ∧ decodeWord .input 0x400 = .error (.wordTooWide .input 0x400) ∧
    decodeWord .output 0x200 = .error (.wordTooWide .output 0x200) ∧
    decodeWord .register 0x200 = .error (.wordTooWide .register 0x200) := ⟨rfl, rfl, rfl, rfl⟩

/-! ## Single operations -/

/-- R99's example: from reset and START, `INB 00` is dropped and the scan goes on. -/
theorem test_inByte_dropped :
    after (exec (.inByte 0x00) running) (fun s => (s.W, s.scanning, s.inRead)) = some ([], true, true) := by decide
/-- R99's example: then `INB 13` starts `W`. -/
theorem test_inByte_sentinel :
    after (exec (.inByte 0x13) { reading [] with scanning := true }) (fun s => (s.W, s.scanning)) = some ([0x13], false) := by decide
/-- R100's example. -/
theorem test_inLast : after (exec (.inLast 0xE5) (reading [0x13, 0x01, 0x07])) (fun s => (s.W, s.evalPending, s.inRead)) =
    some (frame, true, false) := by decide
/-- R100 (b): a scanned read without a sentinel leaves `W` empty. -/
theorem test_inLast_no_sentinel :
    after (exec (.inLast 0x55) running) (fun s => (s.W, s.scanning, s.evalPending)) = some ([], false, true) := by decide
/-- R105's example. -/
theorem test_inErr :
    after (exec (.inErr 0) running) (fun s => (s.mode, s.stkXport, errCode s)) = some (.fail, true, 3) := by decide
/-- R117's example. -/
theorem test_outByte : outData (queued 0) = some 0x13 ∧ after (exec (.outByte 0x13) (queued 0)) State.rdOff = some 1 := by decide
/-- R118's example. -/
theorem test_outLast : outLast (queued 3) = true ∧
    after (exec (.outLast 0xE5) (queued 3)) (fun s => (s.Q, s.rdCnt, s.rdOff)) = some ([], 1, 0) := by decide
/-- R129's example: START from reset. -/
theorem test_wrCtrl_start : after (exec (.wrCtrl 0x1) State.reset) statusWord = some 0x441 := by decide
/-- R129 (e): START and STOP together are STOP. -/
theorem test_wrCtrl_both : after (exec (.wrCtrl 0x3) running) (fun s => (s.mode, s.stopReq)) = some (.run, true) := by decide
/-- R128's example: `WR 0x10, 0` leaves CNT_FRAMES. -/
theorem test_wrIgnored : after (exec (.wrIgnored 0x10 0) { running with cntFrames := 7 }) State.cntFrames = some 7 := by decide
/-- R130's example. -/
theorem test_rdCtrl : after (exec .rdCtrl { running with regRdata := 9 }) State.regRdata = some 0 := by decide
/-- R131's examples. -/
theorem test_rdStatus : after (exec .rdStatus State.reset) State.regRdata = some 0x440 ∧
    after (exec .rdStatus (holding [0x13, 0x02, 0x07])) State.regRdata = some 0x481 := by decide
/-- R132's example: two commits and no pop. -/
theorem test_rdQcount :
    after (exec .rdQcount { running with Q := [frame, frame], wrCnt := 2, wrSeenC := 2 }) State.regRdata = some 2 := by decide
/-- R133's example. -/
theorem test_rdWpos : after (exec .rdWpos (holding [0x13, 0x02, 0x07])) State.regRdata = some 3 := by decide
/-- R134's example: one commit. -/
theorem test_rdCntFrames :
    after (andThen (exec .eval (ended frame)) (exec .rdCntFrames)) State.regRdata = some 1 := by decide
/-- R135's example: `IN 13 00 ED` and its EVAL. -/
theorem test_rdCntZlen :
    after (andThen (exec .eval (ended [0x13, 0x00, 0xED])) (exec .rdCntZlen)) State.regRdata = some 1 := by decide
/-- R136's example: `IN 13 01 07 E4` and its EVAL. -/
theorem test_rdCntCsum :
    after (andThen (exec .eval (ended badFrame)) (exec .rdCntCsum)) State.regRdata = some 1 := by decide
/-- R137: an overflowed read and its EVAL. -/
theorem test_rdCntOvf :
    after (andThen (exec .eval { ended [0x13] with ovf := true }) (exec .rdCntOvf)) State.regRdata = some 1 := by decide
/-- R138's example. -/
theorem test_rdParams : after (exec .rdParams State.reset) State.regRdata = some 0x00040200 := by decide
/-- R139's example. -/
theorem test_rdId : after (exec .rdId { running with mode := .fail }) State.regRdata = some 0x46534331 := by decide
/-- R140's example. -/
theorem test_rdRsvd : after (exec (.rdRsvd 0x28) { running with regRdata := 9 }) State.regRdata = some 0 := by decide
/-- R102's example. -/
theorem test_eval_emit : after (exec .eval (ended (frame ++ [0x13, 0x02]))) (fun s => (s.Q, s.W, s.wrCnt)) =
    some ([frame], [0x13, 0x02], 1) := by decide
/-- R102 (a), R142's example: the sum of `13 00 ED` is 0x100 and the outcome is ZLEN. -/
theorem test_eval_zlen : after (exec .eval (ended [0x13, 0x00, 0xED])) (fun s => (s.W, errCode s, s.stkZlen)) =
    some ([], 1, true) := by decide
/-- R106's example. -/
theorem test_stopDone : after (exec .stopDone { running with stopReq := true }) (fun s => (s.mode, s.stopReq)) =
    some (.stopped, false) := by decide
/-- R119's example: `wrCnt = 3`, `wrSeenC = 1`. -/
theorem test_syncP2c : let s := { running with wrCnt := 3, wrSeenC := 1 }
    after (exec (.syncP2c 2) s) State.wrSeenC = some 2 ∧ after (exec (.syncP2c 3) s) State.wrSeenC = some 3 := by decide
/-- R120's example: `rdCnt = 2`, `rdSeenP = 0`. -/
theorem test_syncC2p : let s := { running with rdCnt := 2, wrSeenC := 2, wrCnt := 2 }
    after (exec (.syncC2p 1) s) State.rdSeenP = some 1 ∧ after (exec (.syncC2p 2) s) State.rdSeenP = some 2 := by decide
/-- R160: FAIL, the queue and a partial frame are gone. -/
theorem test_reset : exec .reset { queued 2 with mode := .fail, W := [0x13], cntFrames := 9 } = .next State.reset := rfl

/-! ## One step from reset, by bare table numbers (notes/assumptions/4.md) -/

/-- R76, R129: START as the first operation after reset, written out as a tick, since the bare number has no write data. -/
theorem test_step_start :
    after (step (offering State.reset (tickOf (.register 0x100 0x1)))) (fun s => (s.mode, s.pending)) = some (.run, []) := by decide
theorem test_withFetchWord_status :
    after (step (State.withFetchWord State.reset 16 0x004)) State.regRdata = some 0x440 := by decide
theorem test_withFetchWord_in_err :
    decodeTableWord 16 0x200 = some (.inErr 0) ∧ decodeTableWord 16 0x400 = none ∧
    after (step (State.withFetchWord running 16 0x200)) State.mode = some .fail := by decide

/-! ## The test notation -/

/-- R79 (b)'s example. -/
theorem test_frameOf : frameOf [0x07, 0x01] = [0x13, 0x02, 0x07, 0x01, 0xE3] := by decide
/-- R88's example. -/
theorem test_calculateChecksum :
    calculateChecksum [0x13, 0x0B, 0x07, 0x01, 0x13, 0x00, 0x02, 0x14, 0x00, 0x01, 0x21, 0x00, 0x10] 0 13 = some 0x7F := by decide

/-- R78, R80, R129's example: `WR CTRL, START` then `RD STATUS -> 0x441`. -/
theorem test_lines : after (runLines 1 [.wr 0x00 0x1, .rd 0x04] State.reset) State.regRdata = some 0x441 := by decide

/-! ## Witnesses: for each statement with hypotheses, a state and operands that meet them all -/

theorem witness_ResetWinsOverTheCycle :
    let t := { tickOf (.input 0x013) with rst := true }
    running.build.legal = true ∧ (offering running t).pending = t :: [] ∧ t.rst = true := by decide

theorem witness_AfterReset : smallest.legal = true ∧ largest.legal = true ∧ Config.Build.reference.legal = true := by decide

/-- The four ways to leave R7's ranges, each by one. -/
theorem witness_IllegalBuildIsRefused :
    { State.reset with build := ⟨257, 1, false⟩ }.build.bufBytes < 258 ∧
    65535 < { State.reset with build := ⟨65536, 1, false⟩ }.build.bufBytes ∧
    { State.reset with build := ⟨258, 0, true⟩ }.build.qFrames = 0 ∧
    255 < { State.reset with build := ⟨258, 256, true⟩ }.build.qFrames := by decide

theorem witness_BeatNotAccepted :
    State.reset.mode ≠ .run ∧ (ended frame).evalPending = true ∧
    (let s := { holding [0x13] with stopReq := true }; s.stopReq = true ∧ s.inRead = false) := by decide

/-- The hypotheses of InByteRule, InLastRule and InErrRule, a stop pending in the middle of a read among them. -/
theorem witness_InRules :
    (let s := running; s.mode = .run ∧ s.evalPending = false ∧ s.stopReq = false) ∧
    (let s := { reading [0x13] with stopReq := true }; s.mode = .run ∧ s.evalPending = false ∧ s.inRead = true) := by decide

/-- The clauses of InByteRule: sentinel found, dropped, no room at exactly BUF_BYTES (and room one below), appended. -/
theorem witness_InByteRule_clauses :
    (let s := running; s.inRead = false ∧ s.W = [] ∧ after (exec (.inByte 0x13) s) State.W = some [0x13]) ∧
    (let s := { reading [] with scanning := true }; s.inRead = true ∧ s.scanning = true ∧
      after (exec (.inByte 0x12) s) State.W = some []) ∧
    (let s := { reading [0x13] with build := ⟨1, 1, false⟩ }; s.W.length = s.build.bufBytes ∧
      after (exec (.inByte 0x00) s) (fun s => (s.W, s.ovf)) = some ([0x13], true)) ∧
    (let s := { reading [0x13] with build := ⟨2, 1, false⟩ }; s.W.length + 1 = s.build.bufBytes ∧
      after (exec (.inByte 0x13) s) (fun s => (s.W, s.ovf)) = some ([0x13, 0x13], false)) := by decide

/-- The clauses of InLastRule, as for IN_BYTE. -/
theorem witness_InLastRule_clauses :
    after (exec (.inLast 0x13) running) State.W = some [0x13] ∧
    after (exec (.inLast 0x12) running) State.W = some [] ∧
    after (exec (.inLast 0x00) { reading [0x13] with build := ⟨1, 1, false⟩ }) (fun s => (s.W, s.ovf)) = some ([0x13], true) ∧
    after (exec (.inLast 0x00) { reading [0x13] with ovf := true }) (fun s => (s.W, s.ovf)) = some ([0x13], true) := by decide

/-- EvalRule: pending, with room for one more frame and without, and the six outcomes at their boundaries. -/
theorem witness_EvalRule :
    (let s := { ended frame with wrCnt := 3 }; s.evalPending = true ∧ (s.wrCnt : Int) - s.rdSeenP < s.build.qFrames) ∧
    (let s := { ended frame with wrCnt := 4 }; s.evalPending = true ∧ ¬ (s.wrCnt : Int) - s.rdSeenP < s.build.qFrames ∧
      after (exec .eval s) (fun t => (t.W, t.evalPending)) = some (frame, true)) ∧
    after (exec .eval { ended [0x13, 0x00] with ovf := true }) errCode = some 4 ∧
    after (exec .eval (ended [0x13])) (fun s => (s.W, errCode s)) = some ([0x13], 0) ∧
    after (exec .eval (ended [0x13, 0x00])) errCode = some 1 ∧
    after (exec .eval (ended [0x13, 0x01, 0x07])) (fun s => (s.W.length, errCode s)) = some (3, 0) ∧
    after (exec .eval (ended badFrame)) (fun s => (s.W, errCode s)) = some ([], 2) ∧
    after (exec .eval (ended frame)) (fun s => (s.Q, s.W)) = some ([frame], []) := by decide

/-- EvalEnabledRule: not pending; the full queue that holds an EMIT up; the full queue that does not hold a WAIT up. -/
theorem witness_EvalEnabledRule :
    running.evalPending = false ∧
    (let s := blocked false
     s.evalPending = true ∧ s.ovf = false ∧ 2 ≤ s.W.length ∧ s.W.getD 1 0 ≠ 0 ∧ (s.W.getD 1 0).toNat + 3 ≤ s.W.length ∧
      ((s.W.take ((s.W.getD 1 0).toNat + 3)).map BitVec.toNat).sum % 256 = 0 ∧
      ¬ (s.wrCnt : Int) - s.rdSeenP < s.build.qFrames) ∧
    (let s := { blocked false with W := [0x13, 0x01, 0x07] }; s.evalPending = true ∧
      ¬ ((s.W.getD 1 0).toNat + 3 ≤ s.W.length) ∧ after (exec .eval s) State.evalPending = some false) := by decide

theorem witness_OutputSignals :
    running.wrSeenC ≤ running.rdCnt ∧
    (let s := queued 3; s.rdCnt < s.wrSeenC ∧ s.Q = frame :: [] ∧ frame[s.rdOff]? = some 0xE5) := by decide

/-- The last byte OUT_BYTE may take is the one before the checksum. -/
theorem witness_OutByteRule :
    let s := queued 2
    s.rdCnt < s.wrSeenC ∧ s.Q = frame :: [] ∧ frame[s.rdOff]? = some 0x07 ∧ s.rdOff ≠ frame.length - 1 := by decide

theorem witness_OutLastRule :
    let s := queued 3
    s.rdCnt < s.wrSeenC ∧ s.Q = frame :: [] ∧ frame[s.rdOff]? = some 0xE5 ∧ s.rdOff = frame.length - 1 := by decide

theorem witness_NoOtherOutputBeat :
    running.wrSeenC ≤ running.rdCnt ∧
    ((queued 3).Q = frame :: [] ∧ frame[(queued 3).rdOff]? = some 0xE5 ∧ (queued 3).rdOff = frame.length - 1) ∧
    ((queued 2).Q = frame :: [] ∧ frame[(queued 2).rdOff]? = some 0x07 ∧ (queued 2).rdOff ≠ frame.length - 1) ∧
    (0x06 : Byte) ≠ 0x07 := by decide

/-- The counts at and just outside the two ends of the ranges of SYNC_P2C and SYNC_C2P. -/
theorem witness_SyncRules :
    let s := { running with wrCnt := 3, wrSeenC := 2, rdCnt := 2 }
    after (exec (.syncP2c 2) s) State.wrSeenC = some 2 ∧ after (exec (.syncP2c 3) s) State.wrSeenC = some 3 ∧
    after (exec (.syncP2c 4) s) State.wrSeenC = some 2 ∧
    after (exec (.syncC2p 0) s) State.rdSeenP = some 0 ∧ after (exec (.syncC2p 1) s) State.rdSeenP = some 1 ∧
    after (exec (.syncC2p 3) s) State.rdSeenP = some 0 := by decide

theorem witness_WrIgnoredRule : (0x01 : Byte) ≠ 0 ∧ (0xFF : Byte) ≠ 0 := by decide

theorem witness_ZeroReads :
    (0x01 : Byte).toNat % 4 ≠ 0 ∧ (0x27 : Byte).toNat % 4 ≠ 0 ∧ 0x24 < (0x28 : Byte).toNat ∧ 0x24 < (0xFC : Byte).toNat := by decide

theorem witness_QcountAndWposRule : (queued 0).Inv ∧ State.reset.Inv := ⟨by decide, by decide⟩

theorem witness_ParamsRule : { State.reset with build := smallest }.build.legal = true ∧
    { State.reset with build := largest }.build.legal = true := by decide

/-- The queue written by a commit, by a pop and by reset, and left alone. -/
theorem witness_QueueWrittenOnlyByCommitPopReset :
    (∃ t, exec .eval (ended frame) = .next t ∧ t.Q ≠ (ended frame).Q) ∧
    (∃ t, exec (.outLast 0xE5) (queued 3) = .next t ∧ t.Q ≠ (queued 3).Q) ∧
    (∃ t, exec .reset (queued 3) = .next t ∧ t.Q ≠ (queued 3).Q) ∧
    (∃ t, exec (.outByte 0x07) (queued 2) = .next t ∧ t.Q = (queued 2).Q) :=
  ⟨⟨_, rfl, by decide⟩, ⟨_, rfl, by decide⟩, ⟨_, rfl, by decide⟩, ⟨_, rfl, by decide⟩⟩

/-- An EVAL, and a WR_CTRL with every bit but CLEAR_LOG set. -/
theorem witness_CountersNeverFallButByClear :
    (∃ t, exec .eval (ended badFrame) = .next t ∧ Instr.eval ≠ .reset ∧
      ∀ v : Word, v.getLsbD 2 = true → Instr.eval ≠ .wrCtrl v) ∧
    (∃ t, exec (.wrCtrl 0xFFFFFFFB) running = .next t ∧ Instr.wrCtrl 0xFFFFFFFB ≠ .reset ∧
      ∀ v : Word, v.getLsbD 2 = true → Instr.wrCtrl 0xFFFFFFFB ≠ .wrCtrl v) :=
  ⟨⟨_, rfl, by decide, fun _ _ h => by cases h⟩, ⟨_, rfl, by decide, fun _ hv h => by cases h; revert hv; decide⟩⟩

/-- The addresses at the edges of the two "any other" rows of R72. -/
theorem witness_DecodeOfEncode :
    ((Instr.wrIgnored 0x01 0).wf = true ∧ encode (.wrIgnored 0x01 0) = some (.register 0x101 0)) ∧
    ((Instr.wrIgnored 0xFF 1).wf = true ∧ encode (.wrIgnored 0xFF 1) = some (.register 0x1FF 1)) ∧
    ((Instr.rdRsvd 0x25).wf = true ∧ encode (.rdRsvd 0x25) = some (.register 0x025 0)) ∧
    ((Instr.inErr 0x1FF).wf = true ∧ encode (.inErr 0x1FF) = some (.input 0x3FF)) := by decide

theorem witness_StepRunsTheDecodedOperation :
    (let s := offering running (tickOf (.input 0x013)); s.build.legal = true ∧ s.pending = tickOf (.input 0x013) :: []) ∧
    (let s := offering running (tickOf (.register 0x100 0x2)); s.build.legal = true ∧ s.pending = tickOf (.register 0x100 0x2) :: []) ∧
    (let s := offering (queued 3) (tickOf (.output 0x1E5))
     s.build.legal = true ∧ s.pending = tickOf (.output 0x1E5) :: [] ∧ outValid s = true ∧ outWord s = some 0x1E5) ∧
    (let s := offering { queued 0 with build := smallest } (tickOf (.output 0x013))
     s.build.legal = true ∧ s.build.asyncFifo = true ∧ outValid s = true ∧ outWord s = some 0x013) := by decide

/-- Ticks that choose EVAL, SYNC_C2P and SYNC_P2C, and what each leaves; and a beat accepted beside a STOP. -/
theorem witness_StepRunsTheDecodedOperation_ticks :
    (let s := offering (ended frame) { Tick.idle with evalNow := true }
     s.build.legal = true ∧ (nextTick s).rst = false ∧ after (step s) (fun t => (t.Q, t.wrSeenC)) = some ([frame], 1)) ∧
    (let s := offering { running with build := smallest, wrCnt := 1, wrSeenC := 1, rdCnt := 1 } { Tick.idle with syncC2p := some 1 }
     s.build.legal = true ∧ (nextTick s).rst = false ∧ after (step s) State.rdSeenP = some 1) ∧
    (let s := offering { running with build := smallest, Q := [frame], wrCnt := 1 } { Tick.idle with edge := .clkC, syncP2c := some 1 }
     s.build.legal = true ∧ (nextTick s).rst = false ∧ after (step s) State.wrSeenC = some 1) ∧
    (let s := offering running { tickOf (.input 0x013) with reg := some ⟨true, 0, 2⟩ }
     s.build.legal = true ∧ (nextTick s).rst = false ∧ inReady s = true ∧ after (step s) State.W = some [0x13]) := by decide

theorem witness_ExecKeepsInvariant : ∃ t, (ended frame).Inv ∧ exec .eval (ended frame) = .next t := ⟨_, by decide, rfl⟩

theorem witness_StepKeepsInvariant :
    let s := offering (ended frame) { tickOf (.register 0x004 0) with evalNow := true }
    ∃ t, s.Inv ∧ s.Synced ∧ step s = .next t ∧ t.Q = [frame] := ⟨_, by decide, by decide, rfl, by decide⟩

theorem witness_StepNeverStops : (queued 3).Inv ∧ { queued 3 with build := smallest }.Inv := ⟨by decide, by decide⟩

theorem witness_BuildNeverChanges :
    ∃ t, step (offering { State.reset with build := largest } (tickOf (.register 0x100 0x1))) = .next t ∧ t.mode = .run :=
  ⟨_, rfl, by decide⟩

theorem witness_FailIsLeftOnlyByReset :
    let s := offering { running with mode := .fail } (tickOf (.register 0x100 0x1))
    ∃ t, s.mode = .fail ∧ (nextTick s).rst = false ∧ step s = .next t := ⟨_, by decide, by decide, rfl⟩

theorem witness_CountsSyncedAfterEveryCycle :
    let s := offering (ended frame) { Tick.idle with evalNow := true }
    ∃ t, s.build.asyncFifo = false ∧ step s = .next t ∧ t.wrCnt = 1 := ⟨_, by decide, rfl, by decide⟩

/-- An edge of each clock that changes something. -/
theorem witness_DomainsChangeOnTheirOwnClock :
    (let s := offering { ended frame with build := smallest } { Tick.idle with evalNow := true }
     ∃ t, s.build.asyncFifo = true ∧ (nextTick s).rst = false ∧ (nextTick s).edge = .clkP ∧ step s = .next t ∧ t.wrCnt = 1) ∧
    (let s := offering { queued 3 with build := smallest } (tickOf (.output 0x1E5))
     ∃ t, s.build.asyncFifo = true ∧ (nextTick s).rst = false ∧ (nextTick s).edge = .clkC ∧ step s = .next t ∧ t.rdCnt = 1) :=
  ⟨⟨_, by decide, by decide, by decide, rfl, by decide⟩, ⟨_, by decide, by decide, by decide, rfl, by decide⟩⟩

theorem witness_OfferedByteIsStable :
    let s := offering (queued 3) (tickOf (.input 0x013))
    ∃ t, s.Inv ∧ outValid s = true ∧ (nextTick s).rst = false ∧ (nextTick s).outReady = false ∧ step s = .next t :=
  ⟨_, by decide, by decide, by decide, by decide, rfl⟩

theorem witness_RegisterReadTiming :
    (let s := offering (ended badFrame) { tickOf (.register 0x018 0) with evalNow := true }
     ∃ t, (nextTick s).rst = false ∧ (nextTick s).reg = some ⟨false, 0x18, 0⟩ ∧ step s = .next t ∧ t.cntCsum = 1) ∧
    (let s := offering { running with regRdata := 7 } (tickOf (.register 0x100 0x2))
     ∃ t, (nextTick s).rst = false ∧ (nextTick s).reg = some ⟨true, 0x00, 2⟩ ∧ step s = .next t ∧ t.mode = .stopped) :=
  ⟨⟨_, by decide, by decide, rfl, by decide⟩, ⟨_, by decide, by decide, rfl, by decide⟩⟩

theorem witness_ErrorEventLastsOneCycle :
    let s := offering { running with mode := .fail, errOut := some .transport } (tickOf (.input 0x200))
    ∃ t, (nextTick s).rst = false ∧ s.build.asyncFifo = false ∧ inReady s = false ∧ (nextTick s).evalNow = false ∧
      step s = .next t := ⟨_, by decide, by decide, by decide, by decide, rfl⟩

/-- CLEAR_LOG beside each of the four errors, from a log that is not empty. -/
theorem witness_ErrorSurvivesClearOfItsCycle :
    let clear := { tickOf (.register 0x100 0x4) with evalNow := true }
    (4 : Word).getLsbD 2 = true ∧ clear.rst = false ∧ clear.reg = some ⟨true, 0, 4⟩ ∧ clear.evalNow = true ∧
    (let s := offering { ended [0x13] with ovf := true, cntOvf := 9 } clear
     s.build.asyncFifo = false ∧ s.evalPending = true ∧ s.ovf = true ∧ after (step s) State.cntOvf = some 1) ∧
    (let s := offering { ended [0x13, 0x00] with cntZlen := 9 } clear
     s.evalPending = true ∧ s.ovf = false ∧ 2 ≤ s.W.length ∧ s.W.getD 1 0 = 0 ∧ after (step s) State.cntZlen = some 1) ∧
    (let s := offering { ended badFrame with cntCsum := 9, stkXport := true } clear
     s.evalPending = true ∧ s.ovf = false ∧ 2 ≤ s.W.length ∧ s.W.getD 1 0 ≠ 0 ∧ (s.W.getD 1 0).toNat + 3 ≤ s.W.length ∧
      sum8 (s.W.take ((s.W.getD 1 0).toNat + 3)) ≠ 0 ∧ after (step s) State.stkXport = some false) ∧
    (let s := offering { running with stkCsum := true } { clear with beat := some (0b1#1 ++ (0 : BitVec 9)) }
     inReady s = true ∧ after (step s) (fun t => (t.stkXport, t.stkCsum)) = some (true, false)) := by decide

theorem witness_StopInFirstBeatCycleIsDeferred :
    let s := offering running { tickOf (.register 0x100 0x2) with beat := some (0b00#2 ++ (0x13 : Byte)) }
    ∃ t, (nextTick s).rst = false ∧ (nextTick s).reg = some ⟨true, 0, 2⟩ ∧ (2 : Word).getLsbD 1 = true ∧
      (nextTick s).beat = some (0b00#2 ++ (0x13 : Byte)) ∧ s.build.asyncFifo = false ∧ inReady s = true ∧ s.inRead = false ∧
      step s = .next t := ⟨_, by decide, by decide, by decide, by decide, by decide, by decide, by decide, rfl⟩

/-- A read of one byte beside the STOP; a requested stop that waits for a read and for an EVAL; and the EVAL that lets it complete. -/
theorem witness_StopInFirstBeatCycleIsDeferred_clauses :
    (let s := offering running { tickOf (.register 0x100 0x2) with beat := some (0b01#2 ++ (0x13 : Byte)) }
     inReady s = true ∧ s.inRead = false ∧ after (step s) (fun t => (t.mode, t.stopReq, t.evalPending)) = some (.run, true, true)) ∧
    (let s := offering { reading [0x13] with stopReq := true } (tickOf (.input 0x155))
     s.inRead = true ∧ s.evalPending = false ∧ (nextTick s).reg = none ∧
      after (step s) (fun t => (t.mode, t.stopReq, t.evalPending)) = some (.run, true, true)) ∧
    (let s := offering { ended frame with stopReq := true } (tickOf (.register 0x101 0x1))
     s.evalPending = true ∧ (nextTick s).evalNow = false ∧ (nextTick s).reg = some ⟨true, 0x01, 1⟩ ∧
      after (step s) (fun t => (t.mode, t.stopReq)) = some (.run, true)) ∧
    (let s := offering { ended frame with stopReq := true } { Tick.idle with evalNow := true }
     s.inRead = false ∧ s.evalPending = true ∧ evalEnabled s = true ∧ (nextTick s).reg = none ∧
      after (step s) (fun t => (t.mode, t.wrCnt)) = some (.stopped, 1)) := by decide

theorem witness_IdleStopTakesEffectInItsCycle :
    let s := offering (holding [0x13]) (tickOf (.register 0x100 0x2))
    ∃ t, (nextTick s).rst = false ∧ (nextTick s).reg = some ⟨true, 0, 2⟩ ∧ (2 : Word).getLsbD 1 = true ∧
      (nextTick s).beat = none ∧ s.build.asyncFifo = false ∧ s.mode = .run ∧ s.inRead = false ∧ s.evalPending = false ∧
      step s = .next t := ⟨_, by decide, by decide, by decide, by decide, by decide, by decide, by decide, by decide, rfl⟩

theorem witness_StopInTheCycleOfATransportFailure :
    let s := offering running { tickOf (.register 0x100 0x2) with beat := some (0b1#1 ++ (0 : BitVec 9)) }
    ∃ t, (nextTick s).rst = false ∧ (nextTick s).reg = some ⟨true, 0, 2⟩ ∧ (2 : Word).getLsbD 1 = true ∧
      (nextTick s).beat = some (0b1#1 ++ (0 : BitVec 9)) ∧ s.build.asyncFifo = false ∧ inReady s = true ∧ step s = .next t :=
  ⟨_, by decide, by decide, by decide, by decide, by decide, by decide, rfl⟩

theorem witness_EvalNotInTheCycleOfItsLastBeat :
    let s := offering (holding [0x13, 0x01, 0x07]) { tickOf (.input 0x1E5) with evalNow := true }
    ∃ t, (nextTick s).rst = false ∧ (nextTick s).beat = some (0b01#2 ++ (0xE5 : Byte)) ∧ inReady s = true ∧
      s.build.asyncFifo = false ∧ step s = .next t := ⟨_, by decide, by decide, by decide, by decide, rfl⟩

theorem witness_FullQueueHoldsTheInput :
    let s := offering (blocked true) { tickOf (.input 0x013) with evalNow := true }
    ∃ t, s.evalPending = true ∧ s.ovf = false ∧ 2 ≤ s.W.length ∧ s.W.getD 1 0 ≠ 0 ∧ (s.W.getD 1 0).toNat + 3 ≤ s.W.length ∧
      sum8 (s.W.take ((s.W.getD 1 0).toNat + 3)) = 0 ∧ ¬ (s.wrCnt : Int) - s.rdSeenP < s.build.qFrames ∧
      (nextTick s).rst = false ∧ step s = .next t :=
  ⟨_, by decide, by decide, by decide, by decide, by decide, by decide, by decide, by decide, rfl⟩

theorem witness_QuietCycleChangesNothing :
    let s := offering { reading [0x13] with stopReq := true, errOut := some .checksum } Tick.idle
    s.build.legal = true ∧ s.Synced ∧ s.pending = Tick.idle :: [] ∧ Tick.idle.rst = false ∧ Tick.idle.reg = none ∧
    Tick.idle.beat = none ∧ Tick.idle.evalNow = false ∧ Tick.idle.outReady = false ∧ Tick.idle.syncC2p = none ∧
    s.build.asyncFifo = false ∧ ¬(s.mode = .run ∧ s.stopReq = true ∧ s.inRead = false ∧ s.evalPending = false) := by decide

/-- An edge of `clk_c` with a beat and an EVAL on the producer's side, which it does not touch, and a frame not yet seen. -/
theorem witness_QuietCycleChangesNothing_clkC :
    let t := { tickOf (.input 0x013) with edge := .clkC, evalNow := true }
    let s := offering { queued 0 with build := smallest, Q := [frame, frame], wrCnt := 2, errOut := some .checksum } t
    s.build.legal = true ∧ s.Synced ∧ s.pending = t :: [] ∧ t.rst = false ∧ t.outReady = false ∧ s.build.asyncFifo = true ∧
    t.edge = .clkC ∧ t.syncP2c = none := by decide

/-- Fair runs from a pending EVAL, from two clocks with a commit and a pop not yet seen, and from a stop about to complete: the premises of every
clause of InternalStepsWaitFinitelyLong. -/
theorem witness_InternalStepsWaitFinitelyLong :
    ∀ s ∈ [ended frame,
        { queued 0 with build := ⟨258, 2, true⟩, wrCnt := 2, wrSeenC := 1, rdCnt := 1, evalPending := true },
        { holding [0x13] with stopReq := true }],
      s.Inv ∧ s.Synced ∧ (evalEnabled s = true ∨ stopEnabled s = true) ∧
      ∃ run, FairRun run ∧ (∃ offers, run 0 = { s with pending := offers }) ∧ (run 0).Inv ∧ (run 0).Synced ∧
        (∀ k, (nextTick (run k)).rst = false) ∧ (∀ p, ClockRuns p run) ∧ ownCycle .stopDone (run 0) = true := by
  have h : ∀ s : State, s.Inv → s.Synced → (evalEnabled s = true ∨ stopEnabled s = true) →
      s.Inv ∧ s.Synced ∧ (evalEnabled s = true ∨ stopEnabled s = true) ∧
      ∃ run, FairRun run ∧ (∃ offers, run 0 = { s with pending := offers }) ∧ (run 0).Inv ∧ (run 0).Synced ∧
        (∀ k, (nextTick (run k)).rst = false) ∧ (∀ p, ClockRuns p run) ∧ ownCycle .stopDone (run 0) = true := by
    intro s hi hs he
    refine ⟨hi, hs, he, delayedRun 1 s, delayedRun_fair 1 s hi.1, ⟨_, rfl⟩, hi, hs, fun k => ?_, fun p m => ?_, ?_⟩
    · rw [(delayedRun_step 1 s hi.1 k).2.1]; rfl
    · obtain ⟨k, h1, _, ho⟩ := delayedRun_ownCycle 1 s hi.1 p m; exact ⟨k, h1, ho⟩
    · exact (ownCycle_iff _ _).mpr ⟨rfl, fun _ => rfl⟩
  intro s hs
  simp only [List.mem_cons, List.not_mem_nil, or_false] at hs
  rcases hs with rfl | rfl | rfl <;> exact h _ (by decide) (by decide) (by decide)

/-- A fair run leaves a step's choices free: EVAL waits in one cycle and is taken in the other (R104). -/
theorem test_EvalTakenOrNot :
    let s := offering (ended frame) Tick.idle
    let t := offering (ended frame) { Tick.idle with evalNow := true }
    internalEnabled .eval s = true ∧ ownCycle .eval s = true ∧ internalTaken .eval s = false ∧ after (step s) State.evalPending = some true ∧
    internalTaken .eval t = true ∧ after (step t) State.evalPending = some false := by decide

/-- STOP_DONE and the synchronization steps, taken and not; a `clk_c` edge is no cycle of EVAL (R106, R119 to R122). -/
theorem test_InternalStepsTaken :
    internalTaken .stopDone (offering running (tickOf (.register 0x100 0x2))) = true ∧
    internalTaken .stopDone (offering { reading [0x13] with stopReq := true } Tick.idle) = false ∧
    (let s := { running with build := smallest, Q := [frame], wrCnt := 1, evalPending := true }
     internalTaken .syncP2c (offering s { Tick.idle with edge := .clkC, syncP2c := some 1 }) = true ∧
     internalTaken .syncP2c (offering s { Tick.idle with edge := .clkC, syncP2c := some 2 }) = false ∧
     internalTaken .syncP2c (offering s { Tick.idle with edge := .clkP, syncP2c := some 1 }) = false ∧
     internalTaken .eval (offering s { Tick.idle with edge := .clkC, evalNow := true }) = false) ∧
    internalTaken .syncC2p (offering running Tick.idle) = true := by decide

/-- R88's range at its end. -/
theorem witness_FrameFunctionValues : 1 + 3 ≤ frame.length ∧ calculateChecksum frame 1 3 = some 0x13 := by decide

theorem witness_ChecksumRoundTrip :
    let b : List Byte := [0x13, 0x01, 0x07]
    calculateChecksum b 0 b.length = some 0xE5 ∧ 2 ≤ b.length ∧ (b.getD 1 0).toNat + 3 = b.length + 1 := by decide

theorem witness_SplitKeepsOrDropsTheLeftover :
    packetLength frame = some frame.length ∧ ([0x13] : List Byte).head? = some 0x13 ∧
    ([0x00, 0x13] : List Byte).head? ≠ some 0x13 := by decide

/-- The frame in two reads, in a queue with room for one. -/
theorem witness_SplitReadEquivalence :
    let s := { running with wrCnt := 3 }
    let reads : List (List Byte) := [[0x13], [0x01, 0x07, 0xE5]]
    s.IdleRun ∧ s.build.legal = true ∧ (s.wrCnt : Int) - s.rdSeenP < s.build.qFrames ∧ validFrame frame = true ∧
    reads.flatten = frame ∧ (∀ r ∈ reads, r ≠ []) ∧ reads = [[0x13]] ++ [[0x01, 0x07, 0xE5]] ∧
    ([[0x01, 0x07, 0xE5]] : List (List Byte)) ≠ [] := by decide

theorem witness_Resynchronization :
    let s := running
    let readsC : List (List Byte) := [[0x13, 0x01], [0x07, 0xE4]]
    let readsV : List (List Byte) := [[0x13], [0x01, 0x07, 0xE5]]
    s.IdleRun ∧ s.build.legal = true ∧ (s.wrCnt : Int) - s.rdSeenP < s.build.qFrames ∧ corruptFrame badFrame = true ∧
    validFrame frame = true ∧ readsC.flatten = badFrame ∧ readsV.flatten = frame ∧ (∀ r ∈ readsC, r ≠ []) ∧
    (∀ r ∈ readsV, r ≠ []) := by decide

theorem witness_MergedReadLosesWhatFollows :
    running.IdleRun ∧ running.build.legal = true ∧ corruptFrame badFrame = true ∧
    badFrame.length + frame.length ≤ running.build.bufBytes := by decide

/-- One byte more than the smallest buffer. -/
theorem witness_OverlongReadIsDropped :
    let s := { running with build := smallest }
    let r : List Byte := 0x13 :: List.replicate 258 0xFF
    s.IdleRun ∧ s.build.legal = true ∧ r.head? = some 0x13 ∧ s.build.bufBytes < r.length :=
  ⟨by decide, by decide, rfl, by show 258 < (List.replicate 258 (0xFF : Byte)).length + 1; rw [List.length_replicate]; decide⟩

/-- A read that commits and a read that does not. -/
theorem witness_OneCommitPerRead :
    running.Inv ∧ (∃ t, deliverReads [frame] running = .next t ∧ t.Q = [frame]) ∧
    (∃ t, deliverReads [badFrame] running = .next t ∧ t.Q = []) :=
  ⟨by decide, ⟨_, rfl, by decide⟩, ⟨_, rfl, by decide⟩⟩

end Sys2Proof.Tests
end

section
/-! Proofs of the scope statements (00_scope.md): the build and its ranges. -/

namespace Sys2Proof.Machine

open Sys2Proof

/-- The legal builds are those in the ranges of R7. -/
theorem legal_iff (b : Config.Build) :
    b.legal = true ↔ 258 ≤ b.bufBytes ∧ b.bufBytes ≤ 65535 ∧ 1 ≤ b.qFrames ∧ b.qFrames ≤ 255 := by
  simp [Config.Build.legal, and_assoc]

/-- A build outside the ranges has no cycle (D17). -/
theorem step_of_not_legal {s : State} (hl : ¬ s.build.legal = true) : step s = .refused .illegalBuild := by
  simp [step, stepBlock, hl]

/-- Settles O5: the four disjuncts contradict the ranges of R7, and `step` refuses what is not legal. -/
theorem illegalBuildIsRefused : Obligations.IllegalBuildIsRefused := by
  intro s hout
  apply step_of_not_legal
  rw [legal_iff]
  omega

/-- A step in which reset is asserted leads to the reset state (R107 step 1, R159). -/
theorem step_next_of_rst {s t : State} (hr : (nextTick s).rst = true) (h : step s = .next t) : t = resetOp (advance s) := by
  rw [step_eq s (legal_of_step h), if_pos hr] at h
  injection h with h
  exact h.symm

/-- The consumer's part of a cycle leaves the build and the counts of commits, true and seen. -/
theorem consumerCycle_frame {t : Tick} {s0 s u : State} (h : consumerCycle t s0 s = .next u) :
    u.build = s.build ∧ u.wrCnt = s.wrCnt ∧ u.wrSeenC = s.wrSeenC := by
  rcases consumerCycle_next h with ⟨_, rfl⟩ | ⟨_, _, _, _, rfl⟩ | ⟨_, _, _, _, rfl⟩ <;> simp

/-- A step leaves the build, reset or not (R7, R44). -/
theorem step_build {s t : State} (h : step s = .next t) : t.build = s.build := by
  cases hr : (nextTick s).rst
  · rcases step_next_cases hr h with ⟨_, u, hu, rfl⟩ | ⟨_, _, rfl⟩ | ⟨_, _, u, hu, rfl⟩
    · simp [(consumerCycle_frame hu).1]
    · simp
    · simp [(consumerCycle_frame hu).1]
  · simp [step_next_of_rst hr h]

/-- Settles O38, by the kinds of cycle a step can be. -/
theorem buildNeverChanges : Obligations.BuildNeverChanges := fun _ _ h => step_build h

end Sys2Proof.Machine
end

section
/-! Every step keeps the invariant of R31: the ends of a cycle, then the step. -/

namespace Sys2Proof.Machine

open Sys2Proof

/-- The reset state meets R31. -/
theorem resetOp_inv {s : State} (hl : s.build.legal = true) : (resetOp s).Inv :=
  ⟨hl, by simp [State.EngineInv], by simp [State.QueueInv, offsetInHead]⟩

/-- The end of a one-clock cycle keeps R31: the true counts satisfy its inequalities (R121). -/
theorem syncAll_inv {s : State} (h : s.Inv) : (syncAll s).Inv := by
  obtain ⟨hl, he, q1, q2, q3, q4, q5, q6, q7⟩ := h
  refine ⟨hl, he, ?_, ?_, ?_, ?_, q5, q6, q7⟩ <;>
    simp only [syncAll_build, syncAll_rdSeenP, syncAll_rdCnt, syncAll_wrSeenC, syncAll_wrCnt] <;> omega

/-- What SYNC_C2P's place in a `clk_p` edge can do (R120): nothing, or advance `rdSeenP` to an admitted count. -/
theorem c2pPart_cases (t : Tick) (s0 s : State) :
    c2pPart t s0 s = s ∨ ∃ v, s0.rdSeenP < v ∧ v ≤ s0.rdCnt ∧ c2pPart t s0 s = syncC2pOp v s := by
  unfold c2pPart
  cases t.syncC2p with
  | none => exact .inl rfl
  | some v =>
    by_cases hv : c2pEnabled v s0 = true
    · obtain ⟨hlo, hhi⟩ := (c2pEnabled_iff v s0).mp hv
      exact .inr ⟨v, hlo, hhi, if_pos hv⟩
    · exact .inl (if_neg hv)

/-- What SYNC_P2C's place in a `clk_c` edge can do (R119): nothing, or advance `wrSeenC` to an admitted count. -/
theorem p2cPart_cases (t : Tick) (s0 s : State) :
    p2cPart t s0 s = s ∨ ∃ v, s0.wrSeenC < v ∧ v ≤ s0.wrCnt ∧ p2cPart t s0 s = syncP2cOp v s := by
  unfold p2cPart
  cases t.syncP2c with
  | none => exact .inl rfl
  | some v =>
    by_cases hv : p2cEnabled v s0 = true
    · obtain ⟨hlo, hhi⟩ := (p2cEnabled_iff v s0).mp hv
      exact .inr ⟨v, hlo, hhi, if_pos hv⟩
    · exact .inl (if_neg hv)

/-- SYNC_C2P keeps R31: it moves `rdSeenP` up, and not above `rdCnt` (R120). -/
theorem c2pPart_inv {t : Tick} {s0 s : State} (h : s.Inv) (hp : s.rdSeenP = s0.rdSeenP) (hc : s.rdCnt = s0.rdCnt) :
    (c2pPart t s0 s).Inv := by
  rcases c2pPart_cases t s0 s with e | ⟨v, hlo, hhi, e⟩ <;> rw [e]
  · exact h
  · obtain ⟨hl, he, q1, q2, q3, q4, q5, q6, q7⟩ := h
    refine ⟨hl, he, ?_, q2, q3, ?_, q5, q6, q7⟩
    · rw [syncC2pOp_rdSeenP, syncC2pOp_rdCnt]; omega
    · rw [syncC2pOp_rdSeenP, syncC2pOp_wrCnt, syncC2pOp_build]; omega

/-- SYNC_P2C keeps R31: it moves `wrSeenC` up, and not above `wrCnt` (R119). -/
theorem p2cPart_inv {t : Tick} {s0 s : State} (h : s.Inv) (hs : s.wrSeenC = s0.wrSeenC) (hw : s.wrCnt = s0.wrCnt) :
    (p2cPart t s0 s).Inv := by
  rcases p2cPart_cases t s0 s with e | ⟨v, hlo, hhi, e⟩ <;> rw [e]
  · exact h
  · obtain ⟨hl, he, q1, q2, q3, q4, q5, q6, q7⟩ := h
    refine ⟨hl, he, q1, ?_, ?_, q4, q5, q6, q7⟩
    · rw [syncP2cOp_rdCnt, syncP2cOp_wrSeenC]; omega
    · rw [syncP2cOp_wrSeenC, syncP2cOp_wrCnt]; omega

/-- Every step keeps the invariant, whatever its tick offers and chooses (R31). -/
theorem step_keeps_inv {s t : State} (hi : s.Inv) (h : step s = .next t) : t.Inv := by
  obtain ⟨hl, he, hq⟩ := advance_inv hi
  cases hr : (nextTick s).rst
  · obtain ⟨pe, pq, pQ⟩ := producerState_inv (nextTick s) (advance s) hl he hq
    rcases step_next_cases hr h with ⟨_, u, hu, rfl⟩ | ⟨_, _, rfl⟩ | ⟨_, _, u, hu, rfl⟩
    · exact syncAll_inv (consumerCycle_inv (by simpa using hl) pe pq pQ (by simp) (by simp) (by simp) hu)
    · exact c2pPart_inv ⟨by simpa using hl, pe, pq⟩ (by simp) (by simp)
    · obtain ⟨_, hw, hs⟩ := consumerCycle_frame hu
      exact p2cPart_inv (consumerCycle_inv hl he hq (.inl rfl) rfl rfl rfl hu) hs hw
  · rw [step_next_of_rst hr h]
    exact resetOp_inv hl

end Sys2Proof.Machine
end

section
/-! Fair runs wait finitely long (R8, R104, R106, R122, R176): one step of a pending EVAL and of STOP_DONE, what holds along a run, and the
use of weak fairness. -/

namespace Sys2Proof.Machine

open Sys2Proof

/-- EVAL's outcome is a function of `ovf` and the working frame (R102). -/
theorem evalOutcome_congr {s t : State} (hW : t.W = s.W) (ho : t.ovf = s.ovf) : evalOutcome t = evalOutcome s := by
  rw [evalOutcome_eq, evalOutcome_eq, hW, ho]

/-- EVAL's condition (R103): one is pending, and there is room if it would commit. -/
theorem evalEnabled_iff (s : State) :
    evalEnabled s = true ↔ s.evalPending = true ∧ ∀ F rest, evalOutcome s = .emit F rest → hasRoom s = true := by
  unfold evalEnabled
  cases evalOutcome s <;> simp

/-- An enabled EVAL that is not taken stays enabled, with its working frame: no input is accepted meanwhile (R97), and only EVAL uses up the
queue's room (R103). -/
theorem step_eval_waits {s t : State} (hi : s.Inv) (hr : (nextTick s).rst = false) (h : step s = .next t)
    (he : evalEnabled s = true) (hn : internalTaken .eval s = false) : evalEnabled t = true ∧ t.W = s.W := by
  rcases step_eval hr h he with ⟨ht, _⟩ | ⟨_, hp, hW, ho, hw⟩
  · rw [hn] at ht; cases ht
  · obtain ⟨-, -, -, hseen, -, -⟩ := step_counts hi hr h
    have hroom : hasRoom s = true → hasRoom t = true := by
      rw [hasRoom_iff, hasRoom_iff, step_build h]; omega
    refine ⟨(evalEnabled_iff t).mpr ⟨hp, fun F rest hF => hroom ?_⟩, hW⟩
    exact ((evalEnabled_iff s).mp he).2 F rest ((evalOutcome_congr hW ho).symm.trans hF)

/-- After STOP_DONE's place in the cycle its condition does not hold (R106). -/
theorem stopEnabled_stopPart (s : State) : stopEnabled (stopPart s) = false := by
  unfold stopPart
  split
  · simp [stopEnabled]
  · simpa using ‹¬ stopEnabled s = true›

/-- A cycle of `clk_p` leaves STOP_DONE with its condition not holding (R106, R107). -/
theorem step_stopDone {s t : State} (ho : ownCycle .stopDone s = true) (h : step s = .next t) : stopEnabled t = false := by
  obtain ⟨hr, hc⟩ := (ownCycle_iff _ s).mp ho
  obtain ⟨hm, _, hin, _, _, hp, hs, _⟩ := step_producer hr hc h
  have := stopEnabled_stopPart (enginePart (nextTick s) (advance s) (regPart (nextTick s) (advance s)))
  unfold stopEnabled at this ⊢
  rw [hm, hin, hp, hs]
  exact this

/-- Weak fairness, used: while its clock runs, an internal step is at some later time taken or not enabled. -/
theorem WeaklyFair.taken_or_disabled {run : Nat → State} (hf : WeaklyFair run) {p : InternalStep} (hc : ClockRuns p run) (n : Nat) :
    ∃ k, n ≤ k ∧ (internalTaken p (run k) = true ∨ internalEnabled p (run k) = false) := by
  by_cases hen : ∀ k, n ≤ k → internalEnabled p (run k) = true
  · obtain ⟨k, hk, ht⟩ := hf p n hen hc
    exact ⟨k, hk, .inl ht⟩
  · push Not at hen
    obtain ⟨k, hk, hd⟩ := hen
    exact ⟨k, hk, .inr (by simpa using hd)⟩

/-- The invariant holds along a run from where it holds once (R31). -/
theorem IsRun.inv {run : Nat → State} (hrun : IsRun run) {n : Nat} (hi : (run n).Inv) : ∀ k, n ≤ k → (run k).Inv := by
  intro k hk
  induction k, hk using Nat.le_induction with
  | base => exact hi
  | succ k _ ih =>
    obtain ⟨t, offers, hs, he⟩ := hrun k
    rw [he]
    exact step_keeps_inv (t := t) ih hs

/-- A count catches up with another: if neither falls, and at some time after any other the first has grown past its value or met the second, then
it reaches whatever the second was. -/
theorem count_catches_up {seen count : Nat → Nat} {n : Nat} (hseen : ∀ k, n ≤ k → seen k ≤ seen (k + 1))
    (hcount : ∀ k, n ≤ k → count k ≤ count (k + 1))
    (hprog : ∀ k, n ≤ k → ∃ j, k ≤ j ∧ (seen j < seen (j + 1) ∨ count j ≤ seen (j + 1))) :
    ∃ k, n ≤ k ∧ count n ≤ seen k := by
  have hreach : ∀ m, m ≤ count n → ∃ k, n ≤ k ∧ m ≤ seen k := by
    intro m
    induction m with
    | zero => exact fun _ => ⟨n, le_rfl, Nat.zero_le _⟩
    | succ m ih =>
      intro hm
      obtain ⟨k, hk, hmk⟩ := ih (by omega)
      obtain ⟨j, hj, hj'⟩ := hprog k hk
      have h1 : seen k ≤ seen j := Nat.rel_of_forall_rel_succ_of_le_of_le (· ≤ ·) hseen hk hj
      have h2 : count n ≤ count j := Nat.rel_of_forall_rel_succ_of_le_of_le (· ≤ ·) hcount le_rfl (hk.trans hj)
      exact ⟨j + 1, by omega, by omega⟩
  exact hreach _ le_rfl

section Run

variable {run : Nat → State} {n : Nat} (hrun : IsRun run) (hi : (run n).Inv) (hr : ∀ k, n ≤ k → (nextTick (run k)).rst = false)

include hrun hi hr

/-- `step_counts` along a run: the neighbours' offers between two steps are no count. -/
theorem IsRun.counts {k : Nat} (hk : n ≤ k) :
    (run k).wrCnt ≤ (run (k + 1)).wrCnt ∧ (run k).rdCnt ≤ (run (k + 1)).rdCnt ∧
    (run k).wrSeenC ≤ (run (k + 1)).wrSeenC ∧ (run k).rdSeenP ≤ (run (k + 1)).rdSeenP ∧
    (internalTaken .syncP2c (run k) = true →
      (run k).wrSeenC < (run (k + 1)).wrSeenC ∨ (run k).wrCnt ≤ (run (k + 1)).wrSeenC) ∧
    (internalTaken .syncC2p (run k) = true →
      (run k).rdSeenP < (run (k + 1)).rdSeenP ∨ (run k).rdCnt ≤ (run (k + 1)).rdSeenP) := by
  obtain ⟨t, offers, hs, he⟩ := hrun k
  rw [he]
  exact step_counts (t := t) (hrun.inv hi k hk) (hr k hk) hs

/-- Every commit becomes visible to the consumer (R119, R122). -/
theorem commits_become_visible (hf : WeaklyFair run) (hc : ClockRuns .syncP2c run) :
    ∃ k, n ≤ k ∧ (run n).wrCnt ≤ (run k).wrSeenC := by
  refine count_catches_up (seen := fun k => (run k).wrSeenC) (count := fun k => (run k).wrCnt)
    (fun k hk => (hrun.counts hi hr hk).2.2.1) (fun k hk => (hrun.counts hi hr hk).1) fun k hk => ?_
  obtain ⟨j, hj, hj'⟩ := hf.taken_or_disabled hc k
  obtain ⟨-, -, hmono, -, htaken, -⟩ := hrun.counts hi hr (hk.trans hj)
  refine ⟨j, hj, ?_⟩
  rcases hj' with ht | hd
  · exact htaken ht
  · have hmet : (run j).wrCnt ≤ (run j).wrSeenC := by simpa [internalEnabled] using hd
    exact .inr (hmet.trans hmono)

/-- Every pop becomes known to the producer (R120, R122). -/
theorem pops_become_known (hf : WeaklyFair run) (hc : ClockRuns .syncC2p run) :
    ∃ k, n ≤ k ∧ (run n).rdCnt ≤ (run k).rdSeenP := by
  refine count_catches_up (seen := fun k => (run k).rdSeenP) (count := fun k => (run k).rdCnt)
    (fun k hk => (hrun.counts hi hr hk).2.2.2.1) (fun k hk => (hrun.counts hi hr hk).2.1) fun k hk => ?_
  obtain ⟨j, hj, hj'⟩ := hf.taken_or_disabled hc k
  obtain ⟨-, -, -, hmono, -, htaken⟩ := hrun.counts hi hr (hk.trans hj)
  refine ⟨j, hj, ?_⟩
  rcases hj' with ht | hd
  · exact htaken ht
  · have hmet : (run j).rdCnt ≤ (run j).rdSeenP := by simpa [internalEnabled] using hd
    exact .inr (hmet.trans hmono)

/-- Until it is taken, an enabled EVAL stays enabled and the working frame as it is. -/
theorem eval_waits (he : evalEnabled (run n) = true) :
    ∀ k, n ≤ k → (∀ j, n ≤ j → j < k → internalTaken .eval (run j) = false) →
      evalEnabled (run k) = true ∧ (run k).W = (run n).W := by
  intro k hk
  induction k, hk using Nat.le_induction with
  | base => exact fun _ => ⟨he, rfl⟩
  | succ k hk ih =>
    intro hn
    obtain ⟨hek, hWk⟩ := ih fun j h1 h2 => hn j h1 (by omega)
    obtain ⟨t, offers, hs, hrt⟩ := hrun k
    obtain ⟨het, hWt⟩ := step_eval_waits (hrun.inv hi k hk) (hr k hk) hs hek (hn k hk (by omega))
    rw [hrt]
    exact ⟨by simpa using het, hWt.trans hWk⟩

/-- An enabled EVAL is taken at some time. -/
theorem exists_eval_taken (hf : WeaklyFair run) (he : evalEnabled (run n) = true) (hc : ClockRuns .eval run) :
    ∃ k, n ≤ k ∧ internalTaken .eval (run k) = true := by
  by_contra hnone
  push Not at hnone
  have hn : ∀ j, n ≤ j → internalTaken .eval (run j) = false := fun j hj => by simpa using hnone j hj
  obtain ⟨k, hk, ht | hd⟩ := hf.taken_or_disabled hc n
  · exact hnone k hk ht
  · have hek := (eval_waits hrun hi hr he k hk fun j hj _ => hn j hj).1
    rw [internalEnabled, hek] at hd
    cases hd

/-- An enabled EVAL is taken after finitely many steps, and until then its read stays pending and the working frame as it is (R103, R104): the
first time at which it is taken. -/
theorem eval_taken_after_waiting (hf : WeaklyFair run) (he : evalEnabled (run n) = true) (hc : ClockRuns .eval run) :
    ∃ k, n ≤ k ∧ internalTaken .eval (run k) = true ∧ (run (k + 1)).evalPending = false ∧
      ∀ j, n ≤ j → j ≤ k → (run j).evalPending = true ∧ (run j).W = (run n).W := by
  have hex := exists_eval_taken hrun hi hr hf he hc
  classical
  obtain ⟨hk, ht⟩ := Nat.find_spec hex
  have hwait : ∀ j, n ≤ j → j ≤ Nat.find hex → evalEnabled (run j) = true ∧ (run j).W = (run n).W := fun j hj hjk =>
    eval_waits hrun hi hr he j hj fun i hni hij => by
      simpa [hni] using Nat.find_min hex (hij.trans_le hjk)
  refine ⟨Nat.find hex, hk, ht, ?_, fun j hj hjk => ⟨evalPending_of_enabled (hwait j hj hjk).1, (hwait j hj hjk).2⟩⟩
  obtain ⟨t, offers, hs, hrt⟩ := hrun (Nat.find hex)
  rcases step_eval (hr _ hk) hs (hwait _ hk le_rfl).1 with ⟨_, hp⟩ | ⟨hn, _⟩
  · rw [hrt]; exact hp
  · rw [ht] at hn; cases hn

end Run

/-- Settles O51: EVAL by the first time it is taken, the counts because each synchronization step gains on the true count, STOP_DONE by its place at
the end of the cycle. -/
theorem internalStepsWaitFinitelyLong : Obligations.InternalStepsWaitFinitelyLong := by
  intro run n ⟨hrun, hf⟩ hi _ hr
  refine ⟨eval_taken_after_waiting hrun hi hr hf, commits_become_visible hrun hi hr hf, pops_become_known hrun hi hr hf,
    fun ho => ?_⟩
  obtain ⟨t, offers, hs, hrt⟩ := hrun n
  rw [hrt, stopEnabled_placed]
  exact step_stopDone ho hs

end Sys2Proof.Machine
end

section
/-! What one operation can do (R99 to R140, R160), said once; every operation keeps R31, and none but CLEAR_LOG and RESET lowers the log. -/

namespace Sys2Proof.Machine

open Sys2Proof

/-- The ways an operation leads from `s` to a next state: it leaves `s`, being not taken or without effect, drives a read value, or has the
effect of its rule under its rule's condition. -/
inductive ExecEffect (s : State) : Instr → State → Prop
  | kept (i : Instr) : ExecEffect s i s
  | read (i : Instr) (v : Word) : ExecEffect s i (readReg v s)
  | inByte (d : Byte) (hr : inReady s = true) : ExecEffect s (.inByte d) (inByteOp d s)
  | inLast (d : Byte) (hr : inReady s = true) : ExecEffect s (.inLast d) (inLastOp d s)
  | inErr (x : BitVec 9) (hr : inReady s = true) : ExecEffect s (.inErr x) (inErrOp s)
  | outByte (d : Byte) (hv : outValid s = true) (hb : headByte s = some d) (hl : headLast s = false) :
      ExecEffect s (.outByte d) (outByteOp s)
  | outLast (d : Byte) (hv : outValid s = true) (hb : headByte s = some d) (hl : headLast s = true) :
      ExecEffect s (.outLast d) (outLastOp s)
  | wrCtrl (v : Word) : ExecEffect s (.wrCtrl v) (wrCtrlOp v s)
  | eval (he : evalEnabled s = true) : ExecEffect s .eval (evalState s)
  | stopDone (hs : stopEnabled s = true) : ExecEffect s .stopDone (stopDoneOp s)
  | syncP2c (v : Nat) (hv : p2cEnabled v s = true) : ExecEffect s (.syncP2c v) (syncP2cOp v s)
  | syncC2p (v : Nat) (hv : c2pEnabled v s = true) : ExecEffect s (.syncC2p v) (syncC2pOp v s)
  | reset : ExecEffect s .reset (resetOp s)

/-- The offered word is made of the head byte and of whether it is the frame's last (R69, R116). -/
theorem outWord_eq_some_iff (s : State) (last : Bool) (d : Byte) :
    outWord s = some (outWordOf last d) ↔ headByte s = some d ∧ headLast s = last := by
  simp only [outWord, Option.map_eq_some_iff, outWordOf_inj]
  constructor
  · rintro ⟨e, he, hl, rfl⟩
    exact ⟨he, hl⟩
  · rintro ⟨hb, hl⟩
    exact ⟨d, hb, hl, rfl⟩

/-- An operation that is taken and completes has the effect of its rule. -/
theorem perform_effect {i : Instr} {s t : State} (hr : ready i s = true) (h : perform i s = .next t) : ExecEffect s i t := by
  cases i with
  | eval => rw [perform, evalOp_eq] at h; cases h; exact .eval hr
  | outByte d =>
    cases h
    simp only [ready, Bool.and_eq_true, decide_eq_true_eq, outWord_eq_some_iff] at hr
    obtain ⟨hv, hb, hl⟩ := hr
    exact .outByte d hv hb hl
  | outLast d =>
    cases h
    simp only [ready, Bool.and_eq_true, decide_eq_true_eq, outWord_eq_some_iff] at hr
    obtain ⟨hv, hb, hl⟩ := hr
    exact .outLast d hv hb hl
  | inByte d => cases h; exact .inByte d hr
  | inLast d => cases h; exact .inLast d hr
  | inErr x => cases h; exact .inErr x hr
  | wrCtrl v => cases h; exact .wrCtrl v
  | wrIgnored => cases h; exact .kept _
  | stopDone => cases h; exact .stopDone hr
  | syncP2c v => cases h; exact .syncP2c v hr
  | syncC2p v => cases h; exact .syncC2p v hr
  | reset => cases h; exact .reset
  | _ => cases h; exact .read _ _

/-- An operation that completes had the effect of its rule, or none. -/
theorem exec_effect {i : Instr} {s t : State} (h : exec i s = .next t) : ExecEffect s i t := by
  cases hr : ready i s
  · rcases exec_of_not_ready i s hr with hk | ⟨_, _, hf⟩
    · rw [hk] at h; cases h; exact .kept i
    · rw [hf] at h; cases h
  · rw [exec_of_ready i s hr] at h
    exact perform_effect hr h

/-- SYNC_C2P keeps R31: it is what a `clk_p` edge that chooses it does at its end (R120, R122). -/
theorem syncC2pOp_inv {v : Nat} {s : State} (h : s.Inv) (hv : c2pEnabled v s = true) : (syncC2pOp v s).Inv := by
  simpa [c2pPart, hv] using c2pPart_inv (t := { Tick.idle with syncC2p := some v }) (s0 := s) h rfl rfl

/-- SYNC_P2C keeps R31: it is what a `clk_c` edge that chooses it does at its end (R119, R122). -/
theorem syncP2cOp_inv {v : Nat} {s : State} (h : s.Inv) (hv : p2cEnabled v s = true) : (syncP2cOp v s).Inv := by
  simpa [p2cPart, hv] using p2cPart_inv (t := { Tick.idle with syncP2c := some v }) (s0 := s) h rfl rfl

/-- Every effect of an operation keeps R31. -/
theorem ExecEffect.keeps_inv {i : Instr} {s t : State} (h : ExecEffect s i t) (hi : s.Inv) : t.Inv := by
  obtain ⟨hl, he, hq⟩ := hi
  cases h with
  | kept => exact ⟨hl, he, hq⟩
  | read => exact ⟨hl, he, hq⟩
  | inByte d hr =>
    obtain ⟨hm, hp, _⟩ := (inReady_iff s).mp hr
    exact ⟨by simpa using hl, inByteOp_engineInv d s hl he hm hp,
      queueInv_of_eq hq (by simp) (by simp) (by simp) (by simp) (by simp) (by simp) (by simp)⟩
  | inLast d hr =>
    obtain ⟨hm, _, _⟩ := (inReady_iff s).mp hr
    exact ⟨by simpa using hl, inLastOp_engineInv d s hl he hm,
      queueInv_of_eq hq (by simp) (by simp) (by simp) (by simp) (by simp) (by simp) (by simp)⟩
  | inErr x hr =>
    obtain ⟨_, hp, _⟩ := (inReady_iff s).mp hr
    exact ⟨hl, inErrOp_engineInv s he hp, hq⟩
  | outByte d hv hb hlast => exact ⟨hl, he, (outOp_queueInv s hv hb (.inl rfl) rfl rfl rfl hq).1 hlast⟩
  | outLast d hv hb hlast => exact ⟨hl, he, (outOp_queueInv s hv hb (.inl rfl) rfl rfl rfl hq).2 hlast⟩
  | wrCtrl v =>
    exact ⟨by simpa using hl, wrCtrlOp_engineInv v s he,
      queueInv_of_eq hq (by simp) (by simp) (by simp) (by simp) (by simp) (by simp) (by simp)⟩
  | eval hen => exact ⟨by simpa using hl, evalState_inv s he hq hen⟩
  | stopDone hs => exact ⟨hl, stopDoneOp_engineInv s he hs, hq⟩
  | syncP2c v hv => exact syncP2cOp_inv ⟨hl, he, hq⟩ hv
  | syncC2p v hv => exact syncC2pOp_inv ⟨hl, he, hq⟩ hv
  | reset => exact resetOp_inv hl

/-- Settles O35, by what an operation can do. -/
theorem execKeepsInvariant : Obligations.ExecKeepsInvariant := fun _ _ _ hi h => (exec_effect h).keeps_inv hi

/-- A saturating increment does not lower its counter (R26). -/
theorem le_satInc (c : Counter) : c.toNat ≤ (satInc c).toNat := by
  have := c.isLt
  rw [satInc, BitVec.toNat_ofNat]
  omega

/-- From `s` to `t` no error counter falls (R26) and no sticky flag is cleared (R27). -/
def LogKept (s t : State) : Prop :=
  s.cntZlen.toNat ≤ t.cntZlen.toNat ∧ s.cntCsum.toNat ≤ t.cntCsum.toNat ∧ s.cntOvf.toNat ≤ t.cntOvf.toNat ∧
  (s.stkZlen = true → t.stkZlen = true) ∧ (s.stkCsum = true → t.stkCsum = true) ∧
  (s.stkOvf = true → t.stkOvf = true) ∧ (s.stkXport = true → t.stkXport = true)

/-- Raising an error sets its flag and counts up, and leaves the others (R141). -/
theorem logKept_raiseErr (c : ErrKind) (s : State) : LogKept s (raiseErr c s) := by
  cases c <;> simp [LogKept, raiseErr, le_satInc]

/-- EVAL lowers no counter and clears no flag, whatever its outcome (R102). -/
theorem evalState_log (s : State) : s.cntFrames.toNat ≤ (evalState s).cntFrames.toNat ∧ LogKept s (evalState s) := by
  unfold evalState
  cases evalOutcome s with
  | ovf => exact ⟨by simp, logKept_raiseErr .bufOverflow _⟩
  | zlen => exact ⟨by simp, logKept_raiseErr .zeroLength _⟩
  | csum => exact ⟨by simp, logKept_raiseErr .checksum _⟩
  | emit F rest => exact ⟨le_satInc _, by simp [LogKept]⟩
  | nolen => simp [LogKept]
  | wait => simp [LogKept]
  | undefinedUse => simp [LogKept]

/-- A WR_CTRL without CLEAR_LOG is its START or STOP (R129). -/
theorem wrCtrlOp_of_no_clear {v : Word} (hv : v.getLsbD 2 = false) (s : State) : wrCtrlOp v s = startStop v s := by
  rw [wrCtrlOp, hv]
  rfl

/-- Only RESET lowers `cntFrames` (R26). -/
theorem ExecEffect.cntFrames_le {i : Instr} {s t : State} (h : ExecEffect s i t) (hn : i ≠ .reset) :
    s.cntFrames.toNat ≤ t.cntFrames.toNat := by
  cases h with
  | eval => exact (evalState_log s).1
  | reset => exact absurd rfl hn
  | _ => simp

/-- Only CLEAR_LOG and RESET lower an error counter or clear a sticky flag (R26, R27). -/
theorem ExecEffect.logKept {i : Instr} {s t : State} (h : ExecEffect s i t) (hn : i ≠ .reset)
    (hc : ∀ v : Word, v.getLsbD 2 = true → i ≠ .wrCtrl v) : LogKept s t := by
  cases h with
  | inErr => exact logKept_raiseErr .transport _
  | eval => exact (evalState_log s).2
  | wrCtrl v =>
    have hv : v.getLsbD 2 = false := by
      rw [Bool.eq_false_iff]
      exact fun hv => hc v hv rfl
    simp [LogKept, wrCtrlOp_of_no_clear hv]
  | reset => exact absurd rfl hn
  | _ => simp [LogKept]

/-- Settles O29, by what an operation can do. -/
theorem countersNeverFallButByClear : Obligations.CountersNeverFallButByClear :=
  fun _ _ _ h hn => ⟨(exec_effect h).cntFrames_le hn, (exec_effect h).logKept hn⟩

end Sys2Proof.Machine
end

section
/-! The state over one step: its reset values, the invariant with the counts synchronized, the clock domains, and the error event. -/

namespace Sys2Proof.Machine

open Sys2Proof

/-- Settles O1, by the definition of the reset state. -/
theorem resetValues : Obligations.ResetValues := by
  intro b
  and_intros <;> rfl

/-- The reset state of a legal build meets R31: RESET leaves it as it is. -/
theorem resetOf_inv {b : Config.Build} (hl : b.legal = true) : (State.resetOf b).Inv := resetOp_inv (s := State.resetOf b) hl

/-- At reset every count is 0, so each domain has seen the other's. -/
theorem resetOf_synced (b : Config.Build) : (State.resetOf b).Synced := fun _ => ⟨rfl, rfl⟩

/-- Settles O34, the reference build being a legal one. -/
theorem resetMeetsInvariant : Obligations.ResetMeetsInvariant :=
  ⟨resetOf_inv (b := Config.Build.reference) (by decide), resetOf_synced _, fun b hl => ⟨resetOf_inv hl, resetOf_synced b⟩⟩

/-- With one clock each domain has seen the other's counts after a step, whatever it was before (R121). -/
theorem step_synced {s t : State} (h : step s = .next t) : t.Synced := by
  intro ha
  rw [step_build h] at ha
  cases hr : (nextTick s).rst
  · rcases step_next_cases hr h with ⟨_, u, _, rfl⟩ | ⟨ha', _⟩ | ⟨ha', _⟩
    · exact ⟨rfl, rfl⟩
    · rw [ha] at ha'; cases ha'
    · rw [ha] at ha'; cases ha'
  · rw [step_next_of_rst hr h]
    exact ⟨rfl, rfl⟩

/-- Settles O36: the invariant is kept part by part of the cycle, and the counts are synchronized at the cycle's end. -/
theorem stepKeepsInvariant : Obligations.StepKeepsInvariant := fun _ _ hi _ h => ⟨step_keeps_inv hi h, step_synced h⟩

/-- Settles O41: the producer's part of a cycle and SYNC_C2P write no consumer-domain element, and the output beat and SYNC_P2C no
producer-domain element. -/
theorem domainsChangeOnTheirOwnClock : Obligations.DomainsChangeOnTheirOwnClock := by
  intro s t ha hr h
  rcases step_next_cases hr h with ⟨ha', _⟩ | ⟨_, he, rfl⟩ | ⟨_, he, u, hu, rfl⟩
  · rw [ha] at ha'; cases ha'
  · exact ⟨fun _ => by simp, fun he' => absurd (he.symm.trans he') (by decide)⟩
  · refine ⟨fun he' => absurd (he.symm.trans he') (by decide), fun _ => ?_⟩
    rcases consumerCycle_next hu with ⟨_, rfl⟩ | ⟨_, _, _, _, rfl⟩ | ⟨_, _, _, _, rfl⟩ <;> simp

/-- A beat that is not a failed one raises no error (R99, R100). -/
theorem beatState_errOut {w : BitVec 10} (hw : w.getLsbD 9 = false) (s : State) : (beatState w s).errOut = s.errOut := by
  unfold beatState
  rcases decodeIn_cases w with ⟨h9, _⟩ | ⟨_, _, hd⟩ | ⟨_, _, hd⟩
  · rw [hw] at h9; cases h9
  · rw [hd, inLastOp_errOut]
  · rw [hd, inByteOp_errOut]

/-- Without an EVAL chosen or pending, EVAL's place in the cycle does nothing (R103, R104). -/
theorem evalPart_of_not_taken {t : Tick} {s0 : State} (h : t.evalNow = false ∨ s0.evalPending = false) (s : State) :
    evalPart t s0 s = s := by
  refine if_neg fun hh => ?_
  obtain ⟨hn, he⟩ := Bool.and_eq_true_iff.mp hh
  rcases h with h | h
  · rw [h] at hn; cases hn
  · rw [evalPending_of_enabled he] at h; cases h

/-- Step 4 of R107 raises no error without an accepted failed beat and without EVAL (R105, R141). -/
theorem enginePart_errOut {t : Tick} {s0 : State} (hb : (∃ w, t.beat = some w ∧ w.getLsbD 9 = true) → inReady s0 = false)
    (he : t.evalNow = false ∨ s0.evalPending = false) (s : State) : (enginePart t s0 s).errOut = s.errOut := by
  unfold enginePart
  cases hw : t.beat with
  | none => simp only [evalPart_of_not_taken he]
  | some w =>
    cases hr : inReady s0
    · simp [evalPart_of_not_taken he]
    · have h9 : w.getLsbD 9 = false := by
        rw [Bool.eq_false_iff]
        intro h9
        rw [hb ⟨w, hw, h9⟩] at hr; cases hr
      simp [beatState_errOut h9]

/-- Settles O44: the event register is cleared at the start of the cycle, and no part of the cycle loads it. -/
theorem errorEventLastsOneCycle : Obligations.ErrorEventLastsOneCycle := by
  intro s t hr hc hb he h
  have hnone : t.errOut = none := by
    obtain ⟨-, -, -, -, -, -, -, -, -, -, -, -, -, -, -, -, herr⟩ := step_producer hr hc h
    rw [herr, producerState, stopPart_errOut, enginePart_errOut (by simpa using hb) (by simpa using he), regPart_errOut]
  simp [errValid, errCode, hnone]

end Sys2Proof.Machine
end

section
/-! The register port and the queue (20_memory.md): what a read leaves, who writes the queue, and when `reg_rdata` changes. -/

namespace Sys2Proof.Machine

open Sys2Proof

/-- Settles O27: a header with `reg_we = 0` decodes to the read of its address, which drives its value and completes. -/
theorem readsHaveNoSideEffect : Obligations.ReadsHaveNoSideEffect := by
  intro s addr v
  have hd : decode (.register (0#1 ++ addr) v) = decodeRead addr := decodeReg_read addr v
  exact ⟨readValue addr s, by rw [hd, exec_decodeRead]; rfl⟩

/-- The frame EVAL finds to commit is the first `L` bytes of the working frame (R53, R102). -/
theorem frame_of_evalOutcome_emit {s : State} {F rest : List Byte} (h : evalOutcome s = .emit F rest) :
    F = s.W.take ((s.W.getD 1 0).toNat + 3) := by
  rw [evalOutcome_eq] at h
  repeat' split at h
  all_goals cases h
  rfl

/-- EVAL leaves the queue or commits one frame, the first `L` bytes of the working frame (R53, R102, R114). -/
theorem evalState_Q_cases (s : State) :
    (evalState s).Q = s.Q ∨
    ((evalState s).Q = s.Q ++ [s.W.take ((s.W.getD 1 0).toNat + 3)] ∧ (evalState s).wrCnt = s.wrCnt + 1) := by
  unfold evalState
  cases ho : evalOutcome s with
  | emit F rest => exact .inr ⟨by simp [frame_of_evalOutcome_emit ho], by simp⟩
  | _ => exact .inl (by simp)

/-- Settles O28: of the effects an operation can have, only those of EVAL, OUT_LAST and RESET write the queue. -/
theorem queueWrittenOnlyByCommitPopReset : Obligations.QueueWrittenOnlyByCommitPopReset := by
  intro i s t h
  cases exec_effect h with
  | eval => exact (evalState_Q_cases s).imp_right fun hc => .inl ⟨rfl, hc⟩
  | outLast d => exact .inr (.inr (.inl ⟨⟨d, rfl⟩, rfl, rfl⟩))
  | reset => exact .inr (.inr (.inr ⟨rfl, rfl⟩))
  | _ => exact .inl (by simp)

/-- A read's value does not depend on where the cycle's offer came from. -/
@[simp] theorem readValue_advance (addr : Byte) (s : State) : readValue addr (advance s) = readValue addr s := by
  unfold advance; split <;> rfl

/-- A read drives the value of the cycle's start on `reg_rdata` (R59, R127). -/
theorem regPart_regRdata_of_read {t : Tick} {addr : Byte} {v : Word} (hr : t.reg = some ⟨false, addr, v⟩) (s : State) :
    (regPart t s).regRdata = readValue addr s := by
  simp [regPart, hr]

/-- Without a read the register operation holds `reg_rdata` (R127). -/
theorem regPart_regRdata_of_no_read {t : Tick} (hw : ∀ r, t.reg = some r → r.we = true) (s : State) :
    (regPart t s).regRdata = s.regRdata := by
  unfold regPart
  cases hr : t.reg with
  | none => simp
  | some r =>
    simp only [hw r hr, if_true]
    split <;> simp

/-- After the register operation the producer's part of the cycle holds `reg_rdata`. -/
@[simp] theorem producerState_regRdata (t : Tick) (s : State) : (producerState t s).regRdata = (regPart t s).regRdata := by
  simp [producerState]

/-- The consumer's part of a cycle holds `reg_rdata`. -/
theorem consumerCycle_regRdata {t : Tick} {s0 s u : State} (h : consumerCycle t s0 s = .next u) : u.regRdata = s.regRdata := by
  rcases consumerCycle_next h with ⟨_, rfl⟩ | ⟨_, _, _, _, rfl⟩ | ⟨_, _, _, _, rfl⟩ <;> simp

/-- A step without reset leaves `reg_rdata` as its register operation does; a `clk_c` edge has none and holds it (R122). -/
theorem step_regRdata {s t : State} (hr : (nextTick s).rst = false) (h : step s = .next t) :
    t.regRdata = (regPart (nextTick s) (advance s)).regRdata ∨
    (s.build.asyncFifo = true ∧ (nextTick s).edge = .clkC ∧ t.regRdata = s.regRdata) := by
  rcases step_next_cases hr h with ⟨_, u, hu, rfl⟩ | ⟨_, _, rfl⟩ | ⟨ha, he, u, hu, rfl⟩
  · exact .inl (by simp [consumerCycle_regRdata hu])
  · exact .inl (by simp)
  · exact .inr ⟨ha, he, by simp [consumerCycle_regRdata hu]⟩

/-- Settles O43: only the cycle's register operation writes `reg_rdata`, and it comes first in the cycle, so a read sees the start state. -/
theorem registerReadTiming : Obligations.RegisterReadTiming := by
  intro s t hr h
  refine ⟨fun addr v hread hc => ?_, fun hw => ?_⟩
  · have hv : t.regRdata = readValue addr s := by
      rcases step_regRdata hr h with hd | ⟨ha, he, _⟩
      · rw [hd, regPart_regRdata_of_read hread, readValue_advance]
      · rw [hc ha] at he; cases he
    rw [exec_decodeRead, hv]
    rfl
  · rcases step_regRdata hr h with hd | ⟨_, _, hd⟩
    · rw [hd, regPart_regRdata_of_no_read hw, advance_regRdata]
    · exact hd

end Sys2Proof.Machine
end

section
/-! Proofs of the encoding statements (30_encoding.md): the words of the three ports and the operations they select, and that no word and no data
stops the block. -/

namespace Sys2Proof.Machine

open Sys2Proof

/-- A read's address is all its word says: the operation is well formed, and its word has that address and no write data (R72). -/
theorem decodeRead_wf_encode (addr : Byte) :
    (decodeRead addr).wf = true ∧ encode (decodeRead addr) = some (.register (regHeader false addr) 0) := by
  have hnamed : ∀ a ∈ namedAddresses,
      (decodeRead a).wf = true ∧ encode (decodeRead a) = some (.register (regHeader false a) 0) := by decide
  rcases decodeRead_cases addr with h | ⟨h, hd⟩
  · exact hnamed addr h
  · rw [hd]
    exact ⟨by simpa [Instr.wf] using h, rfl⟩

/-- Settles O31, by the operation: each port's words decode by their flag bits, and a header by the address below its own. -/
theorem decodeOfEncode : Obligations.DecodeOfEncode := by
  intro i p hwf h
  cases i with
  | inByte d => cases h; exact decodeIn_byte d
  | inLast d => cases h; exact decodeIn_last d
  | inErr x => cases h; exact decodeIn_err x
  | outByte d => cases h; exact decodeOut_outWordOf false d
  | outLast d => cases h; exact decodeOut_outWordOf true d
  | wrCtrl v => cases h; exact decodeReg_write 0 v
  | wrIgnored addr v =>
    cases h
    have ha : addr ≠ 0 := by simpa [Instr.wf] using hwf
    exact (decodeReg_write addr v).trans (if_neg ha)
  | rdRsvd addr =>
    cases h
    have ha : addr ∉ namedAddresses := by simpa [Instr.wf] using hwf
    exact (decodeReg_read addr 0).trans ((decodeRead_cases addr).resolve_left ha).2
  | eval | stopDone | syncP2c | syncC2p | reset => cases h
  | rdCtrl | rdStatus | rdQcount | rdWpos | rdCntFrames | rdCntZlen | rdCntCsum | rdCntOvf | rdParams | rdId =>
    cases h; exact decodeReg_read _ 0

/-- Every nine-bit word is an output word of a flag and a byte (R69). -/
theorem exists_outWordOf (w : BitVec 9) : ∃ last d, w = outWordOf last d := ⟨_, _, (top_append_low w).symm⟩

/-- Every nine-bit word is a register header of a direction and an address (R70). -/
theorem exists_regHeader (h : BitVec 9) : ∃ we addr, h = regHeader we addr := ⟨_, _, (top_append_low h).symm⟩

/-- Every input word is that of a byte, of a last byte or of a failed read (R68): its top bit tells the failed read, and below it stands an
output word's flag and byte. -/
theorem inWord_shapes (w : BitVec 10) :
    (∃ d : Byte, w = 0b00#2 ++ d) ∨ (∃ d : Byte, w = 0b01#2 ++ d) ∨ (∃ x : BitVec 9, w = 0b1#1 ++ x) := by
  have hw : w.extractLsb' 9 1 ++ w.extractLsb' 0 9 = w :=
    (BitVec.extractLsb'_append_extractLsb'_eq_extractLsb' (by rfl)).trans BitVec.extractLsb'_eq_self
  rcases BitVec.eq_zero_or_eq_one (w.extractLsb' 9 1) with h | h
  · obtain ⟨last, d, hx⟩ := exists_outWordOf (w.extractLsb' 0 9)
    rw [h, hx] at hw
    cases last
    · exact .inl ⟨d, hw.symm.trans BitVec.append_assoc'⟩
    · exact .inr (.inl ⟨d, hw.symm.trans BitVec.append_assoc'⟩)
  · rw [h] at hw
    exact .inr (.inr ⟨_, hw.symm⟩)

/-- Settles O32, by the port: every word has the shape of an operation's, and a read alone forgets its write data. -/
theorem everyWordSelectsAnOperation : Obligations.EveryWordSelectsAnOperation := by
  intro p
  cases p with
  | input w =>
    rcases inWord_shapes w with ⟨d, rfl⟩ | ⟨d, rfl⟩ | ⟨x, rfl⟩
    · rw [decode, decodeIn_byte]; exact ⟨rfl, .inl rfl⟩
    · rw [decode, decodeIn_last]; exact ⟨rfl, .inl rfl⟩
    · rw [decode, decodeIn_err]; exact ⟨rfl, .inl rfl⟩
  | output w =>
    obtain ⟨last, d, rfl⟩ := exists_outWordOf w
    rw [decode, decodeOut_outWordOf]
    cases last <;> exact ⟨rfl, .inl rfl⟩
  | register h v =>
    obtain ⟨we, addr, rfl⟩ := exists_regHeader h
    cases we with
    | false =>
      obtain ⟨hwf, henc⟩ := decodeRead_wf_encode addr
      rw [decode, decodeReg_read]
      exact ⟨hwf, .inr ⟨regHeader false addr, v, rfl, regHeader_top false addr, henc⟩⟩
    | true =>
      rw [decode, decodeReg_write]
      split
      next ha => exact ⟨rfl, .inl (by rw [ha]; rfl)⟩
      next ha => exact ⟨by simpa [Instr.wf] using ha, .inl rfl⟩

/-- Settles O30, by evaluating the decoder. -/
theorem writtenOutWords : Obligations.WrittenOutWords := by
  unfold Obligations.WrittenOutWords
  decide

/-- A beat offered while `in_ready = 0` changes nothing, whatever its word (R67, R97). -/
theorem exec_decodeIn_of_not_inReady {s : State} (h : inReady s = false) (w : BitVec 10) : exec (decodeIn w) s = .next s := by
  rw [exec_decodeIn, h]
  rfl

/-- Settles O7: each of the three conditions makes `in_ready` 0, and no input word is then transferred. -/
theorem beatNotAccepted : Obligations.BeatNotAccepted := by
  intro s d x hcond
  have hr : inReady s = false := by
    rw [Bool.eq_false_iff, Ne, inReady_iff]
    rintro ⟨hm, hp, hs⟩
    rcases hcond with h | h | ⟨h1, h2⟩
    · exact h hm
    · rw [hp] at h; cases h
    · simp [h1, h2] at hs
  have hkept := exec_decodeIn_of_not_inReady hr
  exact ⟨decodeIn_byte d ▸ hkept _, decodeIn_last d ▸ hkept _, decodeIn_err x ▸ hkept _⟩

/-- OUT_BYTE is ready when its byte is offered without `out_last` (R69, R116). -/
theorem ready_outByte_iff (s : State) (d : Byte) :
    ready (.outByte d) s = true ↔ outValid s = true ∧ headByte s = some d ∧ headLast s = false := by
  rw [ready, Bool.and_eq_true, decide_eq_true_iff, outWord_eq_some_iff]

/-- OUT_LAST is ready when its byte is offered with `out_last` (R69, R116). -/
theorem ready_outLast_iff (s : State) (d : Byte) :
    ready (.outLast d) s = true ↔ outValid s = true ∧ headByte s = some d ∧ headLast s = true := by
  rw [ready, Bool.and_eq_true, decide_eq_true_iff, outWord_eq_some_iff]

/-- In a state whose byte to offer exists, an operation that is not ready changes nothing. -/
theorem exec_kept_of_not_ready {i : Instr} {s : State} (hb : outValid s = true → ∃ e, headByte s = some e)
    (h : ¬ ready i s = true) : exec i s = .next s := by
  rcases exec_of_not_ready i s (Bool.eq_false_iff.mpr h) with hk | ⟨hv, hw, _⟩
  · exact hk
  · obtain ⟨e, he⟩ := hb hv
    simp [outWord, he] at hw

/-- Settles O17: a beat without `out_valid`, or with another byte or flag than the offered word's, is not ready. -/
theorem noOtherOutputBeat : Obligations.NoOtherOutputBeat := by
  intro s d
  constructor
  · intro hle
    have hv : ¬ outValid s = true := by
      rw [outValid_iff]
      omega
    have hbyte : outValid s = true → ∃ e, headByte s = some e := fun h => absurd h hv
    exact ⟨exec_kept_of_not_ready hbyte fun h => hv ((ready_outByte_iff s d).mp h).1,
      exec_kept_of_not_ready hbyte fun h => hv ((ready_outLast_iff s d).mp h).1⟩
  · intro F rest e hQ he
    have hb : headByte s = some e := by simp [headByte, hQ, he]
    have hbyte : outValid s = true → ∃ e, headByte s = some e := fun _ => ⟨e, hb⟩
    have hl : headLast s = true ↔ s.rdOff = F.length - 1 := by
      have hlt : s.rdOff < F.length := (List.getElem?_eq_some_iff.mp he).1
      simp only [headLast, hQ, decide_eq_true_eq]
      omega
    refine ⟨fun hw => exec_kept_of_not_ready hbyte fun h => ?_, fun hw => exec_kept_of_not_ready hbyte fun h => ?_⟩
    · obtain ⟨_, hd, hlast⟩ := (ready_outByte_iff s d).mp h
      rcases hw with hne | hend
      · exact hne (Option.some_inj.mp (hd.symm.trans hb))
      · rw [hl.mpr hend] at hlast; cases hlast
    · obtain ⟨_, hd, hlast⟩ := (ready_outLast_iff s d).mp h
      rcases hw with hne | hmid
      · exact hne (Option.some_inj.mp (hd.symm.trans hb))
      · exact hmid (hl.mp hlast)

/-- In R31 the byte to offer exists: a visible frame is in the queue, and the offset lies in it (R31 (f), (h), R116). -/
theorem headByte_of_outValid {s : State} (hq : s.QueueInv) (hv : outValid s = true) : ∃ d, headByte s = some d := by
  obtain ⟨_, _, hseen, _, hlen, _, hoff⟩ := hq
  rw [outValid_iff] at hv
  unfold headByte
  unfold offsetInHead at hoff
  cases hQ : s.Q with
  | nil => rw [hQ, List.length_nil] at hlen; omega
  | cons F rest =>
    rw [hQ] at hoff
    exact ⟨_, List.getElem?_eq_getElem (of_decide_eq_true hoff)⟩

/-- Where the byte to offer exists, the consumer's part of a cycle completes (R116). -/
theorem consumerCycle_completes {s0 : State} (hb : outValid s0 = true → ∃ d, headByte s0 = some d) (t : Tick) (s : State) :
    ∃ u, consumerCycle t s0 s = .next u := by
  rcases consumerCycle_cases t s0 s with ⟨_, h⟩ | ⟨_, _, _, _, h⟩ | ⟨_, _, _, _, h⟩ | ⟨_, hv, hn, _⟩
  · exact ⟨_, h⟩
  · exact ⟨_, h⟩
  · exact ⟨_, h⟩
  · obtain ⟨d, hd⟩ := hb hv
    rw [hn] at hd; cases hd

/-- Settles O37, by the kinds of cycle a step can be: the producer's part always completes, and the consumer's finds its byte. -/
theorem stepNeverStops : Obligations.StepNeverStops := by
  rintro s ⟨hl, _, hq⟩
  have hb : outValid (advance s) = true → ∃ d, headByte (advance s) = some d := by
    rw [outValid_advance, headByte_advance]
    exact headByte_of_outValid hq
  have hout : ∀ (u : State) (f : State → State),
      ∃ t, andThen (consumerCycle (nextTick s) (advance s) u) (fun v => .next (f v)) = .next t := by
    intro u f
    obtain ⟨v, hv⟩ := consumerCycle_completes hb (nextTick s) u
    exact ⟨f v, by rw [hv, andThen_next]⟩
  rw [step_eq s hl]
  split
  · exact ⟨_, rfl⟩
  · split
    · split
      · exact ⟨_, rfl⟩
      · exact hout _ _
    · exact hout _ _

end Sys2Proof.Machine
end

section
/-! Proofs of the frame functions' statements (40_frame_functions.md): their values, the checksum of an extended list, the split. -/

namespace Sys2Proof.Machine

open Sys2Proof

/-- `u8` of a natural keeps its low eight bits (R9). -/
theorem u8_natCast (n : Nat) : u8 (n : Int) = BitVec.ofNat 8 n := BitVec.ofInt_natCast 8 n

/-- The two's-complement negation in eight bits is the byte that makes the sum a multiple of 256 (R9, R88). -/
theorem u8_neg_eq_iff (n : Nat) (c : Byte) : u8 (0 - (n : Int)) = c ↔ (n + c.toNat) % 256 = 0 := by
  have hc : c.toNat < 256 := c.isLt
  rw [u8, ← BitVec.toNat_inj, BitVec.toNat_ofInt]
  omega

/-- A checksum is defined on the ranges in the list, and is the byte that brings the range's sum to a multiple of 256 (R88). -/
theorem calculateChecksum_eq_some_iff (bs : List Byte) (start count : Nat) (c : Byte) :
    calculateChecksum bs start count = some c ↔
      start + count ≤ bs.length ∧ (sumBytes ((bs.drop start).take count) + c.toNat) % 256 = 0 := by
  unfold calculateChecksum
  by_cases h : start + count ≤ bs.length
  · rw [if_pos h, Option.some_inj, u8_neg_eq_iff, and_iff_right h]
  · simp [h]

theorem exists_calculateChecksum {bs : List Byte} {start count : Nat} (h : start + count ≤ bs.length) :
    ∃ c, calculateChecksum bs start count = some c :=
  ⟨_, if_pos h⟩

/-- From the length byte on, a list's checksum is valid when the frame is complete and sums to zero (R87). -/
theorem validChecksum_eq (xs : List Byte) (h : 2 ≤ xs.length) :
    validChecksum xs = some (decide ((xs.getD 1 0).toNat + 3 ≤ xs.length ∧
      sum8 (xs.take ((xs.getD 1 0).toNat + 3)) = 0)) := by
  rw [validChecksum, if_pos ((isLengthByteRead_iff xs).mpr h)]
  by_cases hc : isCompletePacket xs = true
  · have hL := ((isCompletePacket_iff xs).mp hc).2
    rw [if_pos hc, frameSum_of_complete xs hc]
    simp only [Option.some_inj, hL, true_and]
  · have hL : ¬ (xs.getD 1 0).toNat + 3 ≤ xs.length := fun hL => hc ((isCompletePacket_iff xs).mpr ⟨h, hL⟩)
    simp only [hc, hL, false_and, decide_false, Bool.false_eq_true, if_false]

/-- Settles O53, each function by its rule; the checksum by the byte that brings its range's sum to a multiple of 256. -/
theorem frameFunctionValues : Obligations.FrameFunctionValues := by
  intro a len rest
  have h2 : 2 ≤ (a :: len :: rest).length := by simp
  refine ⟨rfl, rfl, rfl, rfl, rfl, rfl, rfl, packetLength_cons a len rest, rfl, ?complete, ?sum, ?valid, ?checksum⟩
  case complete => exact (isCompletePacket_iff _).trans (and_iff_right h2)
  case sum =>
    intro hL
    rw [frameSum_of_complete _ ((isCompletePacket_iff _).mpr ⟨h2, hL⟩), sum8, u8_natCast]
    rfl
  case valid =>
    simp only [validChecksum_eq _ h2, sum8_eq_zero_iff]
    rfl
  case checksum =>
    intro bs start count hr
    obtain ⟨c, hc⟩ := exists_calculateChecksum hr
    have hsum := ((calculateChecksum_eq_some_iff bs start count c).mp hc).2
    have hlt : c.toNat < 256 := c.isLt
    rw [sumBytes] at hsum
    exact ⟨c, hc, by omega⟩

/-- A list extended by its checksum sums to zero (R91). -/
theorem sum8_append_checksum {b : List Byte} {c : Byte} (h : calculateChecksum b 0 b.length = some c) :
    sum8 (b ++ [c]) = 0 := by
  have hsum := ((calculateChecksum_eq_some_iff b 0 b.length c).mp h).2
  rw [List.drop_zero, List.take_length] at hsum
  rw [sum8, u8_natCast_eq_zero, sumBytes_append, sumBytes_singleton]
  exact hsum

/-- A list of exactly one frame is valid when it sums to zero (R87). -/
theorem validChecksum_of_exact {F : List Byte} (h2 : 2 ≤ F.length) (hL : (F.getD 1 0).toNat + 3 = F.length)
    (h0 : sum8 F = 0) : validChecksum F = some true := by
  rw [validChecksum_eq F h2, hL, List.take_length, h0]
  simp

/-- Settles O54: the extended list sums to zero, and its length byte is that of the list. -/
theorem checksumRoundTrip : Obligations.ChecksumRoundTrip := by
  intro b c hc
  refine ⟨sum8_append_checksum hc, fun h2 hL => ?_⟩
  have hlen : (b ++ [c]).length = b.length + 1 := List.length_append
  refine validChecksum_of_exact (by omega) ?_ (sum8_append_checksum hc)
  rw [List.getD_append _ _ _ _ h2, hL, hlen]

/-- The packet length, where it is defined, is the same whatever follows (R83). -/
theorem packetLength_append {F : List Byte} {L : Nat} (h : packetLength F = some L) (rest : List Byte) :
    packetLength (F ++ rest) = some L := by
  match F, h with
  | _ :: _ :: _, h => exact h

/-- Where the packet length lies in the list, the split cuts there (R89). -/
theorem split_of_packetLength {xs : List Byte} {L : Nat} (h : packetLength xs = some L) (hL : L ≤ xs.length) :
    split xs = some (xs.take L, keptLeftover (xs.drop L)) := by
  rw [split, h]
  exact if_pos hL

/-- Settles O55: what follows the frame leaves its packet length, so the split cuts at the frame's end. -/
theorem splitKeepsOrDropsTheLeftover : Obligations.SplitKeepsOrDropsTheLeftover := by
  intro F rest hF
  have hL : F.length ≤ (F ++ rest).length := by simp
  rw [split_of_packetLength (packetLength_append hF rest) hL, List.take_left, List.drop_left]
  rfl

end Sys2Proof.Machine
end

section
/-! Proofs of the framing engine's operations (41_framing_engine.md): `in_ready`, the three input beats, EVAL and STOP_DONE, each as `exec`
answers it. -/

namespace Sys2Proof.Machine

open Sys2Proof

/-- Settles O6: `inReady_iff` says it, with the excluded case of a requested stop written as a disjunction. -/
theorem inReadyRule : Obligations.InReadyRule := by
  intro s
  rw [inReady_iff, not_and_or, Bool.not_eq_true, Bool.not_eq_false]

/-- What a byte does to the working frame (R98, R99): while scanning the sentinel is looked for, and afterwards a byte is appended if there is
room. -/
theorem absorb_eq (d : Byte) (s : State) : absorb d s =
    if (s.inRead = false ∧ s.W = []) ∨ (s.inRead = true ∧ s.scanning = true) then
      if d = 0x13 then { s with scanning := false, W := [0x13] } else { s with scanning := true }
    else if s.ovf = true ∨ s.W.length = s.build.bufBytes then { s with scanning := false, ovf := true }
    else { s with scanning := false, W := s.W ++ [d] } := by
  simp only [absorb, scans_iff]
  rfl

/-- Settles O8: the accepted byte is absorbed, and its read is in progress. -/
theorem inByteRule : Obligations.InByteRule := by
  intro s d hm hp hs
  have hr : ready (.inByte d) s = true := (inReady_iff s).mpr ⟨hm, hp, hs⟩
  rw [exec_of_ready _ s hr, perform, inByteOp, absorb_eq]
  split_ifs <;> rfl

/-- Settles O9: the accepted byte is absorbed as by IN_BYTE, and its read is closed. -/
theorem inLastRule : Obligations.InLastRule := by
  intro s d hm hp hs
  have hr : ready (.inLast d) s = true := (inReady_iff s).mpr ⟨hm, hp, hs⟩
  rw [exec_of_ready _ s hr, perform, inLastOp, absorb_eq]
  split_ifs <;> rfl

/-- Settles O10: an accepted failed beat raises TRANSPORT in FAIL, whatever its ignored bits are. -/
theorem inErrRule : Obligations.InErrRule := by
  intro s x hm hp hs
  have hr : ready (.inErr x) s = true := (inReady_iff s).mpr ⟨hm, hp, hs⟩
  rw [exec_of_ready _ s hr]
  rfl

/-- STOP_DONE where its condition does not hold (R106). -/
theorem stopPart_of_not_enabled {s : State} (h : stopEnabled s = false) : stopPart s = s := if_neg (by simp [h])

/-- STOP_DONE where its condition holds (R106). -/
theorem stopPart_of_enabled {s : State} (h : stopEnabled s = true) : stopPart s = stopDoneOp s := if_pos h

/-- Settles O13, by STOP_DONE's condition. -/
theorem stopDoneRule : Obligations.StopDoneRule := by
  intro s
  have hx : exec .stopDone s = .next (stopPart s) := execStopDone_eq s
  rw [hx]
  split_ifs with h
  · rw [stopPart_of_enabled ((stopEnabled_iff s).mpr h)]
    rfl
  · rw [stopPart_of_not_enabled (Bool.eq_false_iff.mpr (mt (stopEnabled_iff s).mp h))]

section Outcomes

/-! EVAL's outcomes, each from the test that finds it (R102). -/

variable {s : State}

theorem evalOutcome_of_ovf (h : s.ovf = true) : evalOutcome s = .ovf := by
  rw [evalOutcome_eq, if_pos h]

variable (ho : s.ovf = false)
include ho

theorem evalOutcome_of_nolen (h : s.W.length < 2) : evalOutcome s = .nolen := by
  rw [evalOutcome_eq, if_neg (by simp [ho]), if_pos h]

variable (h2 : 2 ≤ s.W.length)
include h2

theorem evalOutcome_of_zlen (hz : s.W.getD 1 0 = 0) : evalOutcome s = .zlen := by
  rw [evalOutcome_eq, if_neg (by simp [ho]), if_neg (by omega), if_pos hz]

variable (hz : s.W.getD 1 0 ≠ 0)
include hz

theorem evalOutcome_of_wait (hL : s.W.length < (s.W.getD 1 0).toNat + 3) : evalOutcome s = .wait := by
  rw [evalOutcome_eq, if_neg (by simp [ho]), if_neg (by omega), if_neg hz, if_pos hL]

variable (hL : (s.W.getD 1 0).toNat + 3 ≤ s.W.length)
include hL

theorem evalOutcome_of_csum (hc : sum8 (s.W.take ((s.W.getD 1 0).toNat + 3)) ≠ 0) : evalOutcome s = .csum := by
  rw [evalOutcome_eq, if_neg (by simp [ho]), if_neg (by omega), if_neg hz, if_neg (by omega), if_pos hc]

theorem evalOutcome_of_emit (hc : sum8 (s.W.take ((s.W.getD 1 0).toNat + 3)) = 0) :
    evalOutcome s =
      .emit (s.W.take ((s.W.getD 1 0).toNat + 3)) (keptLeftover (s.W.drop ((s.W.getD 1 0).toNat + 3))) := by
  rw [evalOutcome_eq, if_neg (by simp [ho]), if_neg (by omega), if_neg hz, if_neg (by omega), if_neg (not_not.mpr hc)]

end Outcomes

/-- EVAL completes (R102, R103): with its outcome's effect where it is enabled, and without effect where it is not. -/
theorem exec_eval (s : State) : exec .eval s = .next (if evalEnabled s = true then evalState s else s) := by
  cases h : evalEnabled s
  · simp [exec, execEval, h]
  · simp [exec, execEval, h, evalOp_eq]

/-- A pending EVAL that does not find a frame to commit is enabled, room or not (R103). -/
theorem evalEnabled_of_no_frame {s : State} (hp : s.evalPending = true) (hn : ∀ F rest, evalOutcome s ≠ .emit F rest) :
    evalEnabled s = true :=
  (evalEnabled_iff s).mpr ⟨hp, fun F rest h => absurd h (hn F rest)⟩

/-- A pending EVAL that finds a frame to commit is enabled when the queue has room (R103). -/
theorem evalEnabled_of_frame {s : State} {F rest : List Byte} (hp : s.evalPending = true)
    (he : evalOutcome s = .emit F rest) : evalEnabled s = true ↔ hasRoom s = true := by
  rw [evalEnabled_iff]
  exact ⟨fun h => h.2 F rest he, fun h => ⟨hp, fun _ _ _ => h⟩⟩

/-- A pending EVAL that does not find a frame to commit is taken. -/
theorem exec_eval_of_no_frame {s : State} (hp : s.evalPending = true) (hn : ∀ F rest, evalOutcome s ≠ .emit F rest) :
    exec .eval s = .next (evalState s) := by
  rw [exec_eval, if_pos (evalEnabled_of_no_frame hp hn)]

/-- Settles O11: the tests of the rule are those that find EVAL's outcome, and the effect is the outcome's. -/
theorem evalRule : Obligations.EvalRule := by
  intro s hp
  simp only [← sum8_eq_zero_iff, ne_eq]
  by_cases hovf : s.ovf = true
  · have ho := evalOutcome_of_ovf hovf
    rw [if_pos hovf, exec_eval_of_no_frame hp (by simp [ho]), evalState, ho]
    rfl
  rw [if_neg hovf]
  rw [Bool.not_eq_true] at hovf
  by_cases hlen : s.W.length < 2
  · have ho := evalOutcome_of_nolen hovf hlen
    rw [if_pos hlen, exec_eval_of_no_frame hp (by simp [ho]), evalState, ho]
    rfl
  rw [if_neg hlen]
  rw [Nat.not_lt] at hlen
  by_cases hz : s.W.getD 1 0 = 0
  · have ho := evalOutcome_of_zlen hovf hlen hz
    rw [if_pos hz, exec_eval_of_no_frame hp (by simp [ho]), evalState, ho]
    rfl
  rw [if_neg hz]
  by_cases hL : s.W.length < (s.W.getD 1 0).toNat + 3
  · have ho := evalOutcome_of_wait hovf hlen hz hL
    rw [if_pos hL, exec_eval_of_no_frame hp (by simp [ho]), evalState, ho]
    rfl
  rw [if_neg hL]
  rw [Nat.not_lt] at hL
  by_cases hc : sum8 (s.W.take ((s.W.getD 1 0).toNat + 3)) = 0
  · have ho := evalOutcome_of_emit hovf hlen hz hL hc
    have hen := (evalEnabled_of_frame hp ho).trans (hasRoom_iff s)
    rw [if_neg (not_not.mpr hc), exec_eval]
    by_cases hroom : (s.wrCnt : Int) - s.rdSeenP < s.build.qFrames
    · rw [if_pos hroom, if_pos (hen.mpr hroom), evalState, ho]
      rfl
    · rw [if_neg hroom, if_neg (mt hen.mp hroom)]
  · have ho := evalOutcome_of_csum hovf hlen hz hL hc
    rw [if_pos hc, exec_eval_of_no_frame hp (by simp [ho]), evalState, ho]
    rfl

/-- EVAL finds a frame to commit exactly when nothing overflowed and a complete frame with a payload sums to zero (R102). -/
theorem exists_frame_iff (s : State) : (∃ F rest, evalOutcome s = .emit F rest) ↔
    s.ovf = false ∧ 2 ≤ s.W.length ∧ s.W.getD 1 0 ≠ 0 ∧ (s.W.getD 1 0).toNat + 3 ≤ s.W.length ∧
      sum8 (s.W.take ((s.W.getD 1 0).toNat + 3)) = 0 := by
  constructor
  · rintro ⟨F, rest, h⟩
    rw [evalOutcome_eq] at h
    split_ifs at h with hovf hlen hz hL hc
    exact ⟨by simpa using hovf, by omega, hz, by omega, by simpa using hc⟩
  · rintro ⟨hovf, hlen, hz, hL, hc⟩
    exact ⟨_, _, evalOutcome_of_emit hovf hlen hz hL hc⟩

/-- A pending EVAL waits exactly when it has found a frame and the queue has no room for it (R103). -/
theorem evalEnabled_eq_false_iff {s : State} (hp : s.evalPending = true) :
    evalEnabled s = false ↔ (∃ F rest, evalOutcome s = .emit F rest) ∧ ¬ hasRoom s = true := by
  rw [Bool.eq_false_iff, Ne, evalEnabled_iff]
  by_cases hroom : hasRoom s = true <;> simp [hp, hroom]

/-- Settles O12: the rule's long condition is the one under which a pending EVAL waits, and an EVAL that is taken is done. -/
theorem evalEnabledRule : Obligations.EvalEnabledRule := by
  intro s
  refine ⟨fun hp => ?_, fun hp => ?_⟩
  · rw [exec_eval, if_neg fun h => Bool.false_ne_true (hp.symm.trans (evalPending_of_enabled h))]
  · have hwait := evalEnabled_eq_false_iff hp
    rw [exists_frame_iff, hasRoom_iff] at hwait
    simp only [← sum8_eq_zero_iff, exec_eval]
    split_ifs with hcond hen hen
    · rw [hwait.mpr (by tauto)] at hen; cases hen
    · rfl
    · exact ⟨_, rfl, evalState_done s⟩
    · exact absurd (hwait.mp (by simpa using hen)) (by tauto)

end Sys2Proof.Machine
end

section
/-! Proofs of the reads' statements (R110 to R112, R170): what EVAL makes of a frame at the front of the working frame, the reads that bring one, and
the commits of one read. -/

namespace Sys2Proof.Machine

open Sys2Proof

/-- The shape that a valid and a corrupted frame share (R63, R111): the sentinel, a length byte that is not zero, and as many bytes as it says. -/
def FrameShape (F : List Byte) : Prop :=
  2 ≤ F.length ∧ F.head? = some 0x13 ∧ F.getD 1 0 ≠ 0 ∧ F.length = (F.getD 1 0).toNat + 3

theorem validFrame_iff_shape (F : List Byte) : validFrame F = true ↔ FrameShape F ∧ sum8 F = 0 := by
  simp only [validFrame_iff, FrameShape, and_assoc]

theorem corruptFrame_iff_shape (F : List Byte) : corruptFrame F = true ↔ FrameShape F ∧ sum8 F ≠ 0 := by
  simp only [corruptFrame_iff, FrameShape, and_assoc]

/-- EVAL looks at the frame at the front of the working frame, by its own length byte (R102). -/
theorem evalOutcome_of_frame_append {s : State} {F X : List Byte} (hovf : s.ovf = false) (hW : s.W = F ++ X)
    (hF : FrameShape F) : evalOutcome s = if sum8 F ≠ 0 then .csum else .emit F (keptLeftover X) := by
  obtain ⟨h2, _, hz, hL⟩ := hF
  have hget : s.W.getD 1 0 = F.getD 1 0 := by rw [hW, List.getD_append _ _ _ _ h2]
  have hlen : s.W.length = F.length + X.length := by rw [hW, List.length_append]
  have htake : s.W.take ((s.W.getD 1 0).toNat + 3) = F := by rw [hget, ← hL, hW, List.take_left]
  have hdrop : s.W.drop ((s.W.getD 1 0).toNat + 3) = X := by rw [hget, ← hL, hW, List.drop_left]
  rw [evalOutcome_eq, htake, hdrop, hget, if_neg (by simp [hovf]), if_neg (by omega), if_neg hz, if_neg (by omega)]

/-- `s` once a read has left the working frame `W` there, its EVAL to come (R100). -/
def readDone (W : List Byte) (s : State) : State := { s with W := W, evalPending := true }

/-- EVAL of a corrupted frame clears it and whatever follows it, with CHECKSUM (R102, R141, R170). -/
theorem exec_eval_of_corruptFrame {s : State} {C : List Byte} (X : List Byte) (hs : s.IdleRun) (hC : corruptFrame C = true) :
    exec .eval (readDone (C ++ X) s) = .next (raiseErr .checksum s) := by
  obtain ⟨_, hW, _, _, hovf, hp, _⟩ := hs
  obtain ⟨hshape, hc⟩ := (corruptFrame_iff_shape C).mp hC
  have ho := evalOutcome_of_frame_append (s := readDone (C ++ X) s) hovf rfl hshape
  rw [if_pos hc] at ho
  rw [exec_eval_of_no_frame rfl (by simp [ho]), evalState, ho]
  simp [evalDone, raiseErr, clearW, readDone, hW, hp]

/-- EVAL of a valid frame commits it when the queue has room (R102, R103). -/
theorem exec_eval_of_validFrame {s : State} {F : List Byte} (hs : s.IdleRun) (hF : validFrame F = true)
    (hroom : (s.wrCnt : Int) - s.rdSeenP < s.build.qFrames) :
    exec .eval (readDone F s) =
      .next { s with Q := s.Q ++ [F], wrCnt := s.wrCnt + 1, cntFrames := satInc s.cntFrames } := by
  obtain ⟨_, hW, _, _, hovf, hp, _⟩ := hs
  obtain ⟨hshape, hc⟩ := (validFrame_iff_shape F).mp hF
  have ho := evalOutcome_of_frame_append (s := readDone F s) hovf (List.append_nil F).symm hshape
  rw [if_neg (not_not.mpr hc)] at ho
  have hen := (evalEnabled_of_frame rfl ho).mpr ((hasRoom_iff _).mpr hroom)
  rw [exec_eval, if_pos hen, evalState, ho]
  simp [evalDone, enq, keptLeftover, readDone, hW, hp]

/-- Nothing after a result leaves it. -/
theorem andThen_next_right (r : Result) : andThen r .next = r := by cases r <;> rfl

/-- One read is its beats and its EVAL. -/
theorem deliverReads_singleton (r : List Byte) (s : State) :
    deliverReads [r] s = andThen (deliverRead r s) (exec .eval) :=
  andThen_next_right _

section Frame

variable {s : State} {F : List Byte} (hs : s.IdleRun) (hl : s.build.legal = true) (hF : FrameShape F)
include hs hl hF

/-- From an idle state, reads that bring a proper beginning of a frame accumulate it and do nothing else (R110). -/
theorem deliverReads_beginning {before : List (List Byte)} {rest : List Byte} (hflat : before.flatten ++ rest = F)
    (hne : ∀ r ∈ before, r ≠ []) (hrest : rest ≠ []) :
    deliverReads before s = .next { s with W := before.flatten } := by
  obtain ⟨_, hh, hz, hL⟩ := hF
  have hW : { s with W := [] } = s := by rw [← hs.2.1]
  have h := deliverReads_prefix F s hs hl hh hz hL before [] rest hflat hne hrest
  rwa [hW] at h

/-- From an idle state, however a frame is divided into reads, what counts is the EVAL of the last of them (R110). -/
theorem deliverReads_frame {reads : List (List Byte)} (hflat : reads.flatten = F) (hne : ∀ r ∈ reads, r ≠ []) :
    deliverReads reads s = exec .eval (readDone F s) := by
  rcases List.eq_nil_or_concat reads with rfl | ⟨before, last, rfl⟩
  · obtain ⟨h2, _⟩ := hF
    rw [← hflat] at h2
    cases h2
  · have hcat : before.flatten ++ last = F := by simpa using hflat
    have hlast : last ≠ [] := hne last (by simp)
    have hbefore : ∀ r ∈ before, r ≠ [] := fun r hr => hne r (by simp [hr])
    have hhead : (before.flatten ++ last).head? = some 0x13 := hcat ▸ hF.2.1
    have hfits : (before.flatten ++ last).length ≤ s.build.bufBytes := hcat ▸ frame_length_le F s hl hF.2.2.2
    rw [List.concat_eq_append, deliverReads_append, deliverReads_beginning hs hl hF hcat hbefore hlast, andThen_next,
      deliverReads_singleton, deliverRead_one before.flatten last s hs hlast hhead hfits, andThen_next, hcat]
    rfl

end Frame

/-- A valid frame in reads of its own is committed by the last EVAL (R110). -/
theorem deliverReads_validFrame {s : State} {F : List Byte} {reads : List (List Byte)} (hs : s.IdleRun)
    (hl : s.build.legal = true) (hroom : (s.wrCnt : Int) - s.rdSeenP < s.build.qFrames) (hF : validFrame F = true)
    (hflat : reads.flatten = F) (hne : ∀ r ∈ reads, r ≠ []) :
    deliverReads reads s =
      .next { s with Q := s.Q ++ [F], wrCnt := s.wrCnt + 1, cntFrames := satInc s.cntFrames } := by
  rw [deliverReads_frame hs hl ((validFrame_iff_shape F).mp hF).1 hflat hne, exec_eval_of_validFrame hs hF hroom]

/-- Settles O56: the last EVAL commits, and each EVAL before it finds a beginning of the frame. -/
theorem splitReadEquivalence : Obligations.SplitReadEquivalence := by
  intro s F reads hs hl hroom hF hflat hne
  refine ⟨deliverReads_validFrame hs hl hroom hF hflat hne, ?_⟩
  rintro before after rfl hafter
  have hrest : after.flatten ≠ [] := by
    obtain ⟨r, hr⟩ := List.exists_mem_of_ne_nil after hafter
    exact fun h => hne r (by simp [hr]) (List.flatten_eq_nil_iff.mp h r hr)
  exact deliverReads_beginning hs hl ((validFrame_iff_shape F).mp hF).1 (by rw [← hflat, List.flatten_append])
    (fun r hr => hne r (by simp [hr])) hrest

/-- Settles O57: the corrupted frame's last EVAL leaves an idle state again, from which the valid frame is committed. -/
theorem resynchronization : Obligations.Resynchronization := by
  intro s C V readsC readsV hs hl hroom hC hV hflatC hflatV hneC hneV
  have hreadsC : deliverReads readsC s = .next (raiseErr .checksum s) := by
    have heval := exec_eval_of_corruptFrame [] hs hC
    rw [List.append_nil] at heval
    rw [deliverReads_frame hs hl ((corruptFrame_iff_shape C).mp hC).1 hflatC hneC, heval]
  rw [deliverReads_append, hreadsC, andThen_next]
  exact deliverReads_validFrame (s := raiseErr .checksum s) hs hl hroom hV hflatV hneV

/-- Settles O58: the whole read is the working frame when its EVAL finds the corrupted frame. -/
theorem mergedReadLosesWhatFollows : Obligations.MergedReadLosesWhatFollows := by
  intro s C X hs hl hC hfits
  have ⟨hm, hW, hin, hsc, hovf, hp, hst⟩ := hs
  obtain ⟨h2, hh, _⟩ := ((corruptFrame_iff_shape C).mp hC).1
  have hread : deliverRead (C ++ X) s = .next (readDone (C ++ X) s) := by
    rw [deliverRead_sentinel _ s ⟨hm, hp, hst, hovf⟩ hin hW ?_ (by rwa [List.length_append])]
    · simp [readDone, hin, hsc]
    · rw [List.head?_append_of_ne_nil _ (List.ne_nil_of_length_pos (by omega)), hh]
  rw [deliverReads_singleton, hread, andThen_next, exec_eval_of_corruptFrame X hs hC]
  rfl

/-- The beats of a read, accepted or not, keep R31 and the queue with its counts (R113). -/
theorem deliverRead_keeps {r : List Byte} {s u : State} (hi : s.Inv) (h : deliverRead r s = .next u) :
    u.Inv ∧ u.Q = s.Q ∧ u.wrCnt = s.wrCnt ∧ u.rdCnt = s.rdCnt := by
  induction r generalizing s with
  | nil => cases h; exact ⟨hi, rfl, rfl, rfl⟩
  | cons d r ih =>
    cases r with
    | nil =>
      have hq : u.Q = s.Q ∧ u.wrCnt = s.wrCnt ∧ u.rdCnt = s.rdCnt := by cases exec_effect h <;> simp
      exact ⟨execKeepsInvariant _ _ _ hi h, hq⟩
    | cons e r =>
      obtain ⟨v, hv, hu⟩ := andThen_eq_next.mp h
      obtain ⟨hui, hQ, hw, hr⟩ := ih (execKeepsInvariant _ _ _ hi hv) hu
      have hq : v.Q = s.Q ∧ v.wrCnt = s.wrCnt ∧ v.rdCnt = s.rdCnt := by cases exec_effect hv <;> simp
      exact ⟨hui, hQ.trans hq.1, hw.trans hq.2.1, hr.trans hq.2.2⟩

/-- Settles O60: EVAL appends at most one frame, and R31 makes what it appended a valid frame and the counts fit the queue. -/
theorem oneCommitPerRead : Obligations.OneCommitPerRead := by
  intro s t r hi h
  rw [deliverReads_singleton] at h
  obtain ⟨u, hread, heval⟩ := andThen_eq_next.mp h
  obtain ⟨hui, hQ, hw, _⟩ := deliverRead_keeps hi hread
  have hti : t.Inv := execKeepsInvariant _ _ _ hui heval
  rw [← hQ, ← hw]
  cases exec_effect heval with
  | kept | read => exact .inl ⟨rfl, rfl⟩
  | eval =>
    obtain ⟨_, _, _, _, _, _, hlen, _, _⟩ := hui
    obtain ⟨_, _, _, _, _, _, hlen', hvalid, _⟩ := hti
    rcases evalState_Q_cases u with hkept | ⟨hcommit, hcnt⟩
    · rw [hkept, evalState_rdCnt, hlen] at hlen'
      exact .inl ⟨hkept, hlen'.symm⟩
    · exact .inr ⟨_, hvalid _ (by simp [hcommit]), hcommit, hcnt⟩

end Sys2Proof.Machine
end

section
/-! What one cycle does to the engine (41_framing_engine.md, R107): the parts of the cycle where a beat is accepted, where EVAL is taken or waits, and
where CTRL is written, and the statements about such cycles. -/

namespace Sys2Proof.Machine

open Sys2Proof

/-- The next cycle is the oldest placed one. -/
theorem nextTick_of_pending {s : State} {t : Tick} {ts : List Tick} (h : s.pending = t :: ts) : nextTick s = t := by
  rw [nextTick, h]

/-- The oldest placed cycle is used up. -/
theorem advance_of_pending {s : State} {t : Tick} {ts : List Tick} (h : s.pending = t :: ts) :
    advance s = { s with pending := ts } := by
  rw [advance, h]

/-- Settles O3: reset is tested first. -/
theorem resetWinsOverTheCycle : Obligations.ResetWinsOverTheCycle := by
  intro s t ts hl hp hr
  rw [step_eq s hl, nextTick_of_pending hp, if_pos hr, advance_of_pending hp]
  rfl

/-- A step without reset is a cycle of the producer's clock or an edge of `clk_c` (R121, R122). -/
theorem producer_or_clkC (s : State) :
    (s.build.asyncFifo = true → (nextTick s).edge = .clkP) ∨ (s.build.asyncFifo = true ∧ (nextTick s).edge = .clkC) := by
  cases s.build.asyncFifo <;> cases (nextTick s).edge <;> simp

/-! The engine's part of the cycle (step 4 of R107). -/

theorem enginePart_of_accepted {t : Tick} {s0 : State} {w : BitVec 10} (hb : t.beat = some w) (hr : inReady s0 = true)
    (s : State) : enginePart t s0 s = beatState w s := by
  simp [enginePart, hb, hr]

theorem enginePart_of_not_accepted {t : Tick} {s0 : State} (h : t.beat = none ∨ inReady s0 = false) (s : State) :
    enginePart t s0 s = evalPart t s0 s := by
  unfold enginePart
  cases hb : t.beat with
  | none => rfl
  | some w =>
    rw [hb] at h
    simp [h.resolve_left (by simp)]

theorem beatState_inByte (d : Byte) (s : State) : beatState (0b00#2 ++ d) s = inByteOp d s := by
  rw [beatState, decodeIn_byte]

theorem beatState_inLast (d : Byte) (s : State) : beatState (0b01#2 ++ d) s = inLastOp d s := by
  rw [beatState, decodeIn_last]

theorem beatState_inErr (x : BitVec 9) (s : State) : beatState (0b1#1 ++ x) s = inErrOp s := by
  rw [beatState, decodeIn_err]

/-- A chosen EVAL that is enabled at the cycle's start is taken (R103, R104). -/
theorem evalPart_of_taken {t : Tick} {s0 : State} (hn : t.evalNow = true) (he : evalEnabled s0 = true) (s : State) :
    evalPart t s0 s = evalState s := by
  rw [evalPart, hn, he]
  rfl

/-- An EVAL that is not enabled waits, chosen or not (R103). -/
theorem evalPart_of_not_enabled {s0 : State} (he : evalEnabled s0 = false) (t : Tick) (s : State) : evalPart t s0 s = s := by
  rw [evalPart, he, Bool.and_false]
  rfl

theorem inReady_of_evalPending {s : State} (h : s.evalPending = true) : inReady s = false := by
  simp [inReady, h]

theorem inReady_of_not_run {s : State} (h : s.mode ≠ .run) : inReady s = false := by
  simp [inReady, h]

theorem stopEnabled_of_not_run {s : State} (h : s.mode ≠ .run) : stopEnabled s = false := by
  simp [stopEnabled, h]

/-- A stop is not done while a read is in progress or its EVAL pending (R106). -/
theorem stopEnabled_of_busy {s : State} (h : s.inRead = true ∨ s.evalPending = true) : stopEnabled s = false := by
  rcases h with h | h <;> simp [stopEnabled, h]

/-- In FAIL the producer's part of a cycle stays in FAIL: START does not leave it, no beat is accepted and no stop is done (R129, R145). -/
theorem producerState_fail {s : State} (h : s.mode = .fail) (t : Tick) : (producerState t s).mode = .fail := by
  have hrun : s.mode ≠ .run := by simp [h]
  have hreg : (regPart t s).mode = .fail := by
    rcases regPart_mode t s with hk | ⟨hs, _⟩
    · rw [hk, h]
    · rw [h] at hs; cases hs
  have heng : (enginePart t s (regPart t s)).mode = .fail := by
    rw [enginePart_of_not_accepted (.inr (inReady_of_not_run hrun)), evalPart_mode, hreg]
  rw [producerState, stopPart_of_not_enabled (stopEnabled_of_not_run (by simp [heng])), heng]

/-- Settles O39: the producer's part of a cycle stays in FAIL, and no other part writes `mode`. -/
theorem failIsLeftOnlyByReset : Obligations.FailIsLeftOnlyByReset := by
  intro s t hfail hr h
  rcases producer_or_clkC s with hc | ⟨ha, he⟩
  · obtain ⟨hm, _⟩ := step_producer hr hc h
    rw [hm, producerState_fail (by simpa using hfail)]
  · obtain ⟨hm, _⟩ := (domainsChangeOnTheirOwnClock s t ha hr h).2 he
    rw [hm, hfail]

/-- Settles O50: no beat is accepted while the EVAL is pending, and the EVAL is not enabled without room. -/
theorem fullQueueHoldsTheInput : Obligations.FullQueueHoldsTheInput := by
  intro s t hp hovf hlen hz hL hsum hroom hr h
  have hwait : evalEnabled s = false := by
    rw [evalEnabled_eq_false_iff hp, exists_frame_iff, hasRoom_iff]
    exact ⟨⟨hovf, hlen, hz, hL, hsum⟩, hroom⟩
  have hkept : t.W = s.W ∧ t.inRead = s.inRead ∧ t.evalPending = s.evalPending ∧ t.wrCnt = s.wrCnt := by
    rcases producer_or_clkC s with hc | ⟨ha, he⟩
    · have hprod : producerState (nextTick s) (advance s) = stopPart (regPart (nextTick s) (advance s)) := by
        rw [producerState, enginePart_pending_eval _ _ _ (by simpa using hp), evalPart_of_not_enabled (by simpa using hwait)]
      obtain ⟨_, hW, hin, _, _, hpend, _, hw, _⟩ := step_producer hr hc h
      simp [hW, hin, hpend, hw, hprod]
    · obtain ⟨_, hW, hin, _, _, hpend, _, hw, _⟩ := (domainsChangeOnTheirOwnClock s t ha hr h).2 he
      exact ⟨hW, hin, hpend, hw⟩
  obtain ⟨hW, hin, hpend, hw⟩ := hkept
  exact ⟨hW, hpend.trans hp, inReady_of_evalPending (hpend.trans hp), hw, hin⟩

/-- Settles O49: an accepted beat takes the place of EVAL in its cycle, and IN_LAST leaves the EVAL pending. -/
theorem evalNotInTheCycleOfItsLastBeat : Obligations.EvalNotInTheCycleOfItsLastBeat := by
  intro s t d hr hb hready hc h
  have hprod : producerState (nextTick s) (advance s) = stopPart (inLastOp d (regPart (nextTick s) (advance s))) := by
    rw [producerState, enginePart_of_accepted hb (by simpa using hready), beatState_inLast]
  obtain ⟨_, _, _, _, _, hp, _, hw, hcf, _, _, _, _, _, _, _, herr⟩ := step_producer hr hc h
  rw [hprod] at hp hw hcf herr
  have hpend : t.evalPending = true := by simp [hp]
  exact ⟨hpend, inReady_of_evalPending hpend, by simp [hw], by simp [hcf], by simp [errValid, herr]⟩

/-! A write of CTRL, and a cycle without one. -/

/-- The register part of a cycle that writes CTRL (R129). -/
theorem regPart_of_ctrl {t : Tick} {v : Word} (h : t.reg = some ⟨true, 0, v⟩) (s : State) :
    regPart t s = wrCtrlOp v (startCycle s) := by
  simp [regPart, h]

/-- A cycle that does not write CTRL leaves `mode` and `stopReq` to its other parts (R54, R128). -/
theorem regPart_of_no_ctrl {t : Tick} (h : ∀ r, t.reg = some r → r.we = false ∨ r.addr ≠ 0) (s : State) :
    (regPart t s).mode = s.mode ∧ (regPart t s).stopReq = s.stopReq := by
  unfold regPart
  cases hr : t.reg with
  | none => simp
  | some r => rcases h r hr with hw | ha <;> [simp [hw]; (simp only [ha, if_false]; split <;> simp)]

/-- STOP requests a stop in RUN and leaves RUN to STOP_DONE (R129 (d)). -/
theorem wrCtrlOp_stop {v : Word} {s : State} (hv : v.getLsbD 1 = true) (hm : s.mode = .run) :
    (wrCtrlOp v s).mode = .run ∧ (wrCtrlOp v s).stopReq = true := by
  simp [wrCtrlOp_mode, wrCtrlOp_stopReq, hv, hm]

/-- Settles O47: the request is there when STOP_DONE's condition is tested, and nothing else keeps it from holding. -/
theorem idleStopTakesEffectInItsCycle : Obligations.IdleStopTakesEffectInItsCycle := by
  intro s t v hr hreg hv hb hc hm hin hp h
  obtain ⟨hrm, hrs⟩ := wrCtrlOp_stop (s := startCycle (advance s)) hv (by simpa using hm)
  have hprod : producerState (nextTick s) (advance s) = stopDoneOp (wrCtrlOp v (startCycle (advance s))) := by
    rw [producerState, enginePart_of_not_accepted (.inl hb), evalPart_of_not_taken (.inr (by simpa using hp)),
      regPart_of_ctrl hreg, stopPart_of_enabled ((stopEnabled_iff _).mpr ⟨hrm, hrs, by simpa using hin, by simpa using hp⟩)]
  obtain ⟨htm, htW, _, _, _, _, hts, htw, _⟩ := step_producer hr hc h
  simp [htm, htW, hts, htw, hprod]

end Sys2Proof.Machine
end

section
/-! A write of CTRL beside a beat or EVAL (R106 (b), R107, R149 (b)): the stop that is deferred to the end of its read, and the error that
survives the clearing of the log in its cycle. -/

namespace Sys2Proof.Machine

open Sys2Proof

/-- A read is in progress or its EVAL pending: the condition that defers a requested stop (R106). -/
def Busy (s : State) : Prop := s.inRead = true ∨ s.evalPending = true

/-- A stop is requested in RUN and deferred by a read (R106 (b)). -/
def StopDeferred (s : State) : Prop := s.mode = .run ∧ s.stopReq = true ∧ Busy s

/-- STOP_DONE's place in the cycle leaves a deferred stop as it is. -/
theorem stopPart_of_busy {s : State} (h : Busy s) : stopPart s = s := stopPart_of_not_enabled (stopEnabled_of_busy h)

/-- After an accepted beat that is not a failed one, its read is in progress or its EVAL pending (R99, R100), in the same mode. -/
theorem beatState_busy {w : BitVec 10} (hw : w.getLsbD 9 = false) (s : State) :
    Busy (beatState w s) ∧ (beatState w s).mode = s.mode := by
  unfold beatState
  rcases decodeIn_cases w with ⟨h9, _⟩ | ⟨_, _, hd⟩ | ⟨_, _, hd⟩
  · rw [hw] at h9; cases h9
  · rw [hd]; simp [Busy]
  · rw [hd]; simp [Busy]

/-- Without a failed beat and without EVAL the engine's part of a cycle keeps a deferred stop: a beat belongs to the read that defers it. -/
theorem enginePart_stopDeferred {t : Tick} {s0 s : State} (hb : (∃ w, t.beat = some w ∧ w.getLsbD 9 = true) → inReady s0 = false)
    (he : t.evalNow = false ∨ s0.evalPending = false) (h : StopDeferred s) : StopDeferred (enginePart t s0 s) := by
  obtain ⟨hm, hs, hbusy⟩ := h
  by_cases ha : t.beat = none ∨ inReady s0 = false
  · rw [enginePart_of_not_accepted ha, evalPart_of_not_taken he]
    exact ⟨hm, hs, hbusy⟩
  · obtain ⟨hsome, hready⟩ := not_or.mp ha
    obtain ⟨w, hw⟩ := Option.ne_none_iff_exists'.mp hsome
    have h9 : w.getLsbD 9 = false := by
      rw [Bool.eq_false_iff]
      exact fun h9 => hready (hb ⟨w, hw, h9⟩)
    obtain ⟨hbusy', hm'⟩ := beatState_busy h9 s
    rw [enginePart_of_accepted hw (by simpa using hready)]
    exact ⟨hm'.trans hm, by simp [hs], hbusy'⟩

/-- Without CTRL write, failed beat and EVAL a step keeps a deferred stop (R106 (b)). -/
theorem step_stopDeferred {s t : State} (hr : (nextTick s).rst = false)
    (hreg : ∀ r, (nextTick s).reg = some r → r.we = false ∨ r.addr ≠ 0)
    (hb : (∃ w, (nextTick s).beat = some w ∧ w.getLsbD 9 = true) → inReady s = false)
    (he : (nextTick s).evalNow = false ∨ s.evalPending = false) (hd : StopDeferred s) (h : step s = .next t) :
    StopDeferred t := by
  rcases producer_or_clkC s with hc | ⟨ha, hedge⟩
  · obtain ⟨hrm, hrs⟩ := regPart_of_no_ctrl hreg (advance s)
    have hreg' : StopDeferred (regPart (nextTick s) (advance s)) := by
      unfold StopDeferred Busy
      rw [hrm, hrs]
      simpa [StopDeferred, Busy] using hd
    have hp := enginePart_stopDeferred (s0 := advance s) (by simpa using hb) (by simpa using he) hreg'
    obtain ⟨hm, _, hin, _, _, hpend, hs, _⟩ := step_producer hr hc h
    unfold StopDeferred Busy
    rw [hm, hin, hpend, hs, producerState, stopPart_of_busy hp.2.2]
    exact hp
  · obtain ⟨hm, _, hin, _, _, hpend, hs, _⟩ := (domainsChangeOnTheirOwnClock s t ha hr h).2 hedge
    unfold StopDeferred Busy
    rw [hm, hin, hpend, hs]
    exact hd

/-- The step that takes the EVAL of the read that defers a stop completes the stop (R106 (b)). -/
theorem step_stopDone_after_eval {s t : State} (hr : (nextTick s).rst = false)
    (hreg : ∀ r, (nextTick s).reg = some r → r.we = false ∨ r.addr ≠ 0) (hm : s.mode = .run) (hs : s.stopReq = true)
    (hin : s.inRead = false) (hn : (nextTick s).evalNow = true) (he : evalEnabled s = true)
    (hc : s.build.asyncFifo = true → (nextTick s).edge = .clkP) (h : step s = .next t) :
    t.mode = .stopped ∧ t.stopReq = false ∧ t.evalPending = false := by
  obtain ⟨hrm, hrs⟩ := regPart_of_no_ctrl hreg (advance s)
  have hprod : producerState (nextTick s) (advance s) = stopDoneOp (evalState (regPart (nextTick s) (advance s))) := by
    rw [producerState, enginePart_pending_eval _ _ _ (by simpa using evalPending_of_enabled he),
      evalPart_of_taken hn (by simpa using he), stopPart_of_enabled]
    rw [stopEnabled_iff]
    simp [hrm, hrs, hm, hs, hin, evalState_done]
  obtain ⟨htm, _, _, _, _, htp, hts, _⟩ := step_producer hr hc h
  simp [htm, htp, hts, hprod, evalState_done]

/-- A STOP written in the cycle of an accepted beat meets what the beat leaves (R107): the beat is accepted by `in_ready` of the cycle's start. -/
theorem producerState_stop_and_beat {t : Tick} {s : State} {v : Word} {w : BitVec 10} (hreg : t.reg = some ⟨true, 0, v⟩)
    (hb : t.beat = some w) (hready : inReady s = true) (hbusy : Busy (beatState w (wrCtrlOp v (startCycle s)))) :
    producerState t s = beatState w (wrCtrlOp v (startCycle s)) := by
  rw [producerState, regPart_of_ctrl hreg, enginePart_of_accepted hb hready, stopPart_of_busy hbusy]

/-- Settles O46: in the first beat's cycle the beat defers the stop, and from then on the read does until its EVAL. -/
theorem stopInFirstBeatCycleIsDeferred : Obligations.StopInFirstBeatCycleIsDeferred := by
  refine ⟨fun s t v d hr hreg hv hc hready _ h => ?_, fun s t hr hreg hm hs h => ⟨fun hbusy hb he => ?_, fun hin _ hn he hc => ?_⟩⟩
  · obtain ⟨hm, _⟩ := (inReady_iff s).mp hready
    obtain ⟨hrm, hrs⟩ := wrCtrlOp_stop (s := startCycle (advance s)) hv (by simpa using hm)
    obtain ⟨htm, _, htin, _, _, htp, hts, _⟩ := step_producer hr hc h
    rw [htm, htin, htp, hts]
    constructor <;> intro hb
    · rw [producerState_stop_and_beat hreg hb (by simpa using hready) (by simp [beatState_inByte, Busy]), beatState_inByte]
      simp [hrm, hrs]
    · rw [producerState_stop_and_beat hreg hb (by simpa using hready) (by simp [beatState_inLast, Busy]), beatState_inLast]
      simp [hrm, hrs]
  · exact step_stopDeferred hr hreg hb he ⟨hm, hs, hbusy⟩ h
  · exact step_stopDone_after_eval hr hreg hm hs hin hn he hc h

/-- The error log (R26, R27) is empty but for the event register. -/
def LogCleared (s : State) : Prop :=
  s.cntZlen = 0 ∧ s.cntCsum = 0 ∧ s.cntOvf = 0 ∧ s.stkZlen = false ∧ s.stkCsum = false ∧ s.stkOvf = false ∧ s.stkXport = false

/-- Two states show the same errors: counters, sticky flags and event (R26 to R28). -/
def SameLog (s t : State) : Prop :=
  t.cntZlen = s.cntZlen ∧ t.cntCsum = s.cntCsum ∧ t.cntOvf = s.cntOvf ∧ t.stkZlen = s.stkZlen ∧ t.stkCsum = s.stkCsum ∧
  t.stkOvf = s.stkOvf ∧ t.stkXport = s.stkXport ∧ t.errOut = s.errOut

theorem SameLog.trans {s t u : State} (h : SameLog s t) (h' : SameLog t u) : SameLog s u := by
  simp_all [SameLog]

/-- CLEAR_LOG, whatever START and STOP do beside it (R129 (g)). -/
theorem logCleared_of_clear {v : Word} (hv : v.getLsbD 2 = true) (s : State) : LogCleared (wrCtrlOp v s) := by
  simp [LogCleared, wrCtrlOp, hv]

/-- The errors a producer cycle shows at its end are those its beat or EVAL leaves, after the register operation (R107). -/
theorem step_log {s t : State} {v : Word} (hr : (nextTick s).rst = false)
    (hc : s.build.asyncFifo = true → (nextTick s).edge = .clkP) (hreg : (nextTick s).reg = some ⟨true, 0, v⟩)
    (h : step s = .next t) :
    SameLog (enginePart (nextTick s) (advance s) (wrCtrlOp v (startCycle (advance s)))) t := by
  obtain ⟨_, _, _, _, _, _, _, _, _, hlog⟩ := step_producer hr hc h
  simpa [SameLog, producerState, regPart_of_ctrl hreg] using hlog

/-- One error raised on an empty log: its counter is 1, if it has one, its flag set and its code shown, and the rest of the log stays empty. -/
theorem log_of_raiseErr {c : ErrKind} {r t : State} (hr : LogCleared r) (h : SameLog (raiseErr c r) t) :
    errCode t = c.code ∧ t.cntZlen = (if c = .zeroLength then 1 else 0) ∧ t.cntCsum = (if c = .checksum then 1 else 0) ∧
    t.cntOvf = (if c = .bufOverflow then 1 else 0) ∧ t.stkZlen = decide (c = .zeroLength) ∧
    t.stkCsum = decide (c = .checksum) ∧ t.stkOvf = decide (c = .bufOverflow) ∧ t.stkXport = decide (c = .transport) := by
  obtain ⟨hz, hc, ho, hsz, hsc, hso, hsx⟩ := hr
  obtain ⟨tz, tc, tov, tsz, tsc, tso, tsx, terr⟩ := h
  have hcode : errCode t = c.code := by rw [errCode, terr, raiseErr_errOut]
  rw [tz, tc, tov, tsz, tsc, tso, tsx]
  cases c <;> simp [hcode, raiseErr, hz, hc, ho, hsz, hsc, hso, hsx, satInc]

/-- The error that EVAL raises for an outcome, if it raises one (R102, R141). -/
def evalError : EvalOutcome → Option ErrKind
  | .ovf => some .bufOverflow
  | .zlen => some .zeroLength
  | .csum => some .checksum
  | .nolen | .wait | .emit _ _ | .undefinedUse => none

/-- To the log an EVAL is the raising of its outcome's error. -/
theorem evalState_raises {s : State} {c : ErrKind} (h : evalError (evalOutcome s) = some c) :
    SameLog (raiseErr c s) (evalState s) := by
  unfold evalState
  cases ho : evalOutcome s with
  | ovf | zlen | csum => rw [ho] at h; cases h; simp [SameLog, raiseErr]
  | nolen | wait | emit | undefinedUse => rw [ho] at h; cases h

section ClearLog

variable {s t : State} {v : Word} (hr : (nextTick s).rst = false) (hreg : (nextTick s).reg = some ⟨true, 0, v⟩)
  (hc : s.build.asyncFifo = true → (nextTick s).edge = .clkP) (h : step s = .next t)
include hr hreg hc h

/-- An EVAL that raises an error is taken in the cycle that chooses it, after the write of CTRL, and the error is shown at the end. -/
theorem step_log_of_eval {c : ErrKind} (hn : (nextTick s).evalNow = true) (hp : s.evalPending = true)
    (herr : evalError (evalOutcome s) = some c) : SameLog (raiseErr c (wrCtrlOp v (startCycle (advance s)))) t := by
  have hen : evalEnabled s = true :=
    evalEnabled_of_no_frame hp fun F rest ho => by rw [ho] at herr; cases herr
  have hsame : evalOutcome (wrCtrlOp v (startCycle (advance s))) = evalOutcome s := evalOutcome_congr (by simp) (by simp)
  have hlog := step_log hr hc hreg h
  rw [enginePart_pending_eval _ _ _ (by simpa using hp), evalPart_of_taken hn (by simpa using hen)] at hlog
  exact (evalState_raises (hsame.symm ▸ herr)).trans hlog

/-- A failed beat accepted beside a write of CTRL is shown at the end of the cycle, which leaves the block in FAIL (R105, R107). -/
theorem step_of_inErr {x : BitVec 9} (hb : (nextTick s).beat = some (0b1#1 ++ x)) (hready : inReady s = true) :
    SameLog (inErrOp (wrCtrlOp v (startCycle (advance s)))) t ∧ t.mode = .fail := by
  have heng : enginePart (nextTick s) (advance s) (wrCtrlOp v (startCycle (advance s))) =
      inErrOp (wrCtrlOp v (startCycle (advance s))) := by
    rw [enginePart_of_accepted hb (by simpa using hready), beatState_inErr]
  have hlog := step_log hr hc hreg h
  rw [heng] at hlog
  obtain ⟨hm, _⟩ := step_producer hr hc h
  rw [hm, producerState, regPart_of_ctrl hreg, heng, stopPart_of_not_enabled (stopEnabled_of_not_run (by simp))]
  exact ⟨hlog, by simp⟩

end ClearLog

/-- Settles O45: the clear comes first in the cycle, so the error is raised on an empty log. -/
theorem errorSurvivesClearOfItsCycle : Obligations.ErrorSurvivesClearOfItsCycle := by
  intro s t v hr hreg hv hc h
  have hclear := logCleared_of_clear hv (startCycle (advance s))
  refine ⟨fun hn hp => ⟨fun hovf => ?ovf, fun hovf hlen hz => ?zlen, fun hovf hlen hz hL hsum => ?csum⟩, fun x hb hready => ?xport⟩
  case ovf =>
    have hlog := step_log_of_eval (c := .bufOverflow) hr hreg hc h hn hp (by rw [evalOutcome_of_ovf hovf]; rfl)
    obtain ⟨e, z, c, o, sz, sc, so, sx⟩ := log_of_raiseErr hclear hlog
    exact ⟨e, o, z, c, so, sz, sc, sx⟩
  case zlen =>
    have hlog := step_log_of_eval (c := .zeroLength) hr hreg hc h hn hp (by rw [evalOutcome_of_zlen hovf hlen hz]; rfl)
    exact log_of_raiseErr hclear hlog
  case csum =>
    have hlog := step_log_of_eval (c := .checksum) hr hreg hc h hn hp (by rw [evalOutcome_of_csum hovf hlen hz hL hsum]; rfl)
    obtain ⟨e, z, c, o, sz, sc, so, sx⟩ := log_of_raiseErr hclear hlog
    exact ⟨e, c, z, o, sc, sz, so, sx⟩
  case xport =>
    obtain ⟨hlog, hfail⟩ := step_of_inErr hr hreg hc h hb hready
    obtain ⟨e, z, c, o, sz, sc, so, sx⟩ := log_of_raiseErr (c := .transport) hclear hlog
    exact ⟨e, hfail, z, c, o, sx, sz, sc, so⟩

end Sys2Proof.Machine
end

section
/-! A cycle in terms of `exec` (R107, R121, R122): each of its parts is `exec` of the operation it takes, and a quiet cycle takes none. -/

namespace Sys2Proof.Machine

open Sys2Proof

/-- Counts that each domain has seen need no synchronization (R121). -/
theorem syncAll_of_synced {s : State} (h : s.rdSeenP = s.rdCnt ∧ s.wrSeenC = s.wrCnt) : syncAll s = s := by
  obtain ⟨hp, hc⟩ := h
  cases s
  cases hp
  cases hc
  rfl

/-- A consumer that accepts nothing leaves its part of the cycle empty (R69). -/
theorem consumerCycle_of_not_ready {t : Tick} (h : t.outReady = false) (s0 s : State) : consumerCycle t s0 s = .next s := by
  simp [consumerCycle, h]

/-- A producer cycle without offers, chosen EVAL and enabled stop only ends the error event (R28, R101). -/
theorem producerState_of_quiet {t : Tick} {s : State} (hreg : t.reg = none) (hb : t.beat = none) (he : t.evalNow = false)
    (hs : stopEnabled s = false) : producerState t s = startCycle s := by
  have hr : regPart t s = startCycle s := by rw [regPart, hreg]
  rw [producerState, enginePart_of_not_accepted (.inl hb), evalPart_of_not_taken (.inl he), hr]
  exact stopPart_of_not_enabled hs

/-- Settles O52, by the kinds of cycle: every part that could write takes no operation. -/
theorem quietCycleChangesNothing : Obligations.QuietCycleChangesNothing := by
  intro s t ts hl hsync hp hrst hout
  have hstep := step_eq s hl
  rw [nextTick_of_pending hp, advance_of_pending hp, if_neg (by simp [hrst])] at hstep
  rw [hstep]
  constructor
  · intro hc hreg hb he hsy hns
    have hns' : stopEnabled s = false := Bool.eq_false_iff.mpr (mt (stopEnabled_iff s).mp hns)
    rw [producerState_of_quiet (s := { s with pending := ts }) hreg hb he hns']
    split_ifs with ha
    · simp only [hc ha, c2pPart, hsy]
      rfl
    · have hseen : syncAll (startCycle { s with pending := ts }) = startCycle { s with pending := ts } :=
        syncAll_of_synced (hsync (by simpa using ha))
      rw [consumerCycle_of_not_ready hout, andThen_next, hseen]
      rfl
  · intro ha hedge hsy
    simp only [ha, if_true, hedge, consumerCycle_of_not_ready hout, andThen_next, p2cPart, hsy]

/-! The parts of a cycle, each as `exec` of the operations it takes. -/

/-- The cycle's register operation. -/
def regExec (t : Tick) (u : State) : Result :=
  match t.reg with
  | some r => exec (decode (.register (regHeader r.we r.addr) r.wdata)) u
  | none => .next u

/-- EVAL, if the cycle chooses it. -/
def evalExec (t : Tick) (u : State) : Result := if t.evalNow = true then exec .eval u else .next u

/-- The beat accepted by `in_ready` of the cycle's start `s`, or else EVAL. -/
def engineExec (t : Tick) (s u : State) : Result :=
  match t.beat with
  | some w => if inReady s = true then perform (decode (.input w)) u else evalExec t u
  | none => evalExec t u

/-- The producer's part of a cycle. -/
def producerExec (t : Tick) (s u : State) : Result :=
  andThen (andThen (regExec t u) (engineExec t s)) (exec .stopDone)

/-- The byte offered at the cycle's start `s`, if it is taken. -/
def consumerExec (t : Tick) (s u : State) : Result :=
  if t.outReady = true ∧ outValid s = true then
    match outWord s with
    | some w => exec (decode (.output w)) u
    | none => .fault .headByteMissing
  else .next u

/-- SYNC_C2P, if the cycle chooses it. -/
def c2pExec (t : Tick) (u : State) : Result :=
  match t.syncC2p with
  | some v => exec (.syncC2p v) u
  | none => .next u

/-- SYNC_P2C, if the cycle chooses it. -/
def p2cExec (t : Tick) (u : State) : Result :=
  match t.syncP2c with
  | some v => exec (.syncP2c v) u
  | none => .next u

theorem regExec_eq (t : Tick) (s : State) : regExec t (startCycle s) = .next (regPart t s) := by
  rw [← performAll_regInstr, regExec, regInstr]
  cases t.reg with
  | none => rfl
  | some r => exact exec_of_ready _ _ (ready_decodeReg _ _ _)

/-- Whether EVAL is enabled is the same before and after the register operation. -/
theorem evalExec_eq (t : Tick) (s : State) : evalExec t (regPart t s) = .next (evalPart t s (regPart t s)) := by
  rw [evalExec, evalPart]
  cases t.evalNow
  · rfl
  · simp [exec_eval]

theorem engineExec_eq (t : Tick) (s : State) : engineExec t s (regPart t s) = .next (enginePart t s (regPart t s)) := by
  rw [engineExec, enginePart]
  cases t.beat with
  | none => exact evalExec_eq t s
  | some w =>
    cases inReady s
    · exact evalExec_eq t s
    · exact perform_decodeIn w _

theorem producerExec_eq (t : Tick) (s : State) : producerExec t s (startCycle s) = .next (producerState t s) := by
  rw [producerExec, regExec_eq, andThen_next, engineExec_eq, andThen_next]
  exact execStopDone_eq _

/-- The producer's part of a cycle leaves the queue or appends to it (R113). -/
theorem producerState_Q_cases (t : Tick) (s : State) :
    (producerState t s).Q = s.Q ∨ ∃ F, (producerState t s).Q = s.Q ++ [F] := by
  have heval : (evalPart t s (regPart t s)).Q = s.Q ∨ ∃ F, (evalPart t s (regPart t s)).Q = s.Q ++ [F] := by
    unfold evalPart
    split
    · rcases evalState_Q_cases (regPart t s) with hk | ⟨hk, _⟩
      · exact .inl (by simp [hk])
      · exact .inr ⟨_, by rw [hk, regPart_Q]⟩
    · exact .inl (by simp)
  rw [producerState, stopPart_Q, enginePart]
  cases t.beat with
  | none => exact heval
  | some w =>
    cases inReady s
    · exact heval
    · exact .inl (by simp)

/-- The word offered at the cycle's start is still offered after the producer's part: a commit goes to the other end of the queue. -/
theorem outWord_of_append {s u : State} {w : BitVec 9} (h : outWord s = some w) (hQ : u.Q = s.Q ∨ ∃ F, u.Q = s.Q ++ [F])
    (hoff : u.rdOff = s.rdOff) : outWord u = some w := by
  obtain ⟨G, rest, hG⟩ : ∃ G rest, s.Q = G :: rest := by
    cases hs : s.Q with
    | nil => simp [outWord, headByte, hs] at h
    | cons G rest => exact ⟨G, rest, rfl⟩
  rcases hQ with hQ | ⟨F, hQ⟩ <;> rw [← h] <;> simp [outWord, headByte, headLast, hQ, hoff, hG]

/-- The consumer takes the offered byte by `exec` of its operation: the word is still the offered one when it is taken. -/
theorem consumerExec_eq {t : Tick} {s u : State} (hQ : u.Q = s.Q ∨ ∃ F, u.Q = s.Q ++ [F]) (hoff : u.rdOff = s.rdOff)
    (hrd : u.rdCnt = s.rdCnt) (hseen : u.wrSeenC = s.wrSeenC) : consumerExec t s u = consumerCycle t s u := by
  unfold consumerExec consumerCycle
  simp only [Bool.and_eq_true]
  split_ifs with htake
  · cases hw : outWord s with
    | none => rfl
    | some w =>
      have hv : outValid u = true := by rw [outValid_iff, hrd, hseen, ← outValid_iff]; exact htake.2
      exact exec_decodeOut w u hv (outWord_of_append hw hQ hoff)
  · rfl

/-- A gated operation that always completes. -/
theorem gated_next (b : Bool) (f : State → State) (s : State) :
    gated b (fun s => .next (f s)) s = .next (if b = true then f s else s) := by
  cases b <;> rfl

theorem c2pExec_eq {t : Tick} {s u : State} (hp : u.rdSeenP = s.rdSeenP) (hr : u.rdCnt = s.rdCnt) :
    c2pExec t u = .next (c2pPart t s u) := by
  unfold c2pExec c2pPart
  cases t.syncC2p with
  | none => rfl
  | some v =>
    have hen : c2pEnabled v u = c2pEnabled v s := by rw [c2pEnabled, c2pEnabled, hp, hr]
    simp only [exec, execSyncC2p, gated_next, hen]

theorem p2cExec_eq {t : Tick} {s u : State} (hs : u.wrSeenC = s.wrSeenC) (hw : u.wrCnt = s.wrCnt) :
    p2cExec t u = .next (p2cPart t s u) := by
  unfold p2cExec p2cPart
  cases t.syncP2c with
  | none => rfl
  | some v =>
    have hen : p2cEnabled v u = p2cEnabled v s := by rw [p2cEnabled, p2cEnabled, hs, hw]
    simp only [exec, execSyncP2c, gated_next, hen]

/-- Sequences agree when their second parts agree on what the first part leads to. -/
theorem andThen_congr {r : Result} {f g : State → Result} (h : ∀ u, r = .next u → f u = g u) : andThen r f = andThen r g := by
  cases r with
  | next u => exact h u rfl
  | fault e => rfl
  | refused e => rfl

/-- A cycle without reset that starts in `a`, as `exec` of the operations it takes in R107's order (R121, R122). -/
def cycleExec (t : Tick) (a : State) : Result :=
  if a.build.asyncFifo = true then
    match t.edge with
    | .clkP => andThen (producerExec t a (startCycle a)) (c2pExec t)
    | .clkC => andThen (consumerExec t a a) (p2cExec t)
  else andThen (andThen (producerExec t a (startCycle a)) (consumerExec t a)) fun u => .next (syncAll u)

/-- A step without reset runs the operations its cycle takes. -/
theorem step_eq_cycleExec {s : State} {t : Tick} {ts : List Tick} (hl : s.build.legal = true) (hp : s.pending = t :: ts)
    (hr : t.rst = false) : step s = cycleExec t { s with pending := ts } := by
  rw [step_eq s hl, nextTick_of_pending hp, if_neg (by simp [hr]), ← advance_of_pending hp, ← advance_build]
  generalize advance s = a
  rw [cycleExec, producerExec_eq, andThen_next, andThen_next]
  split_ifs
  · cases t.edge with
    | clkP => exact (c2pExec_eq (by simp) (by simp)).symm
    | clkC =>
      show _ = andThen (consumerExec t a a) (p2cExec t)
      rw [consumerExec_eq (.inl rfl) rfl rfl rfl]
      refine andThen_congr fun u hu => ?_
      obtain ⟨_, hw, hs⟩ := consumerCycle_frame hu
      exact (p2cExec_eq hs hw).symm
  · rw [consumerExec_eq (producerState_Q_cases t a) (by simp) (by simp) (by simp)]

/-! A cycle in which one port word is offered and nothing else. -/

/-- An input word is the cycle's beat: the producer's part is `exec` of its operation, then STOP_DONE. -/
theorem producerExec_input (w : BitVec 10) (s : State) :
    producerExec (tickOf (.input w)) s (startCycle s) = andThen (exec (decode (.input w)) (startCycle s)) (exec .stopDone) := by
  have hbeat : engineExec (tickOf (.input w)) s (startCycle s) = exec (decode (.input w)) (startCycle s) :=
    (exec_decodeIn w (startCycle s)).symm
  show andThen (engineExec (tickOf (.input w)) s (startCycle s)) (exec .stopDone) = _
  rw [hbeat]

/-- A register word is the cycle's register operation. -/
theorem producerExec_register (h : BitVec 9) (v : Word) (s : State) :
    producerExec (tickOf (.register h v)) s (startCycle s) =
      andThen (exec (decode (.register h v)) (startCycle s)) (exec .stopDone) := by
  have hreg : regExec (tickOf (.register h v)) (startCycle s) = exec (decode (.register h v)) (startCycle s) := by
    show exec (decode (.register (regHeader (h.getLsbD 8) (h.extractLsb' 0 8)) v)) (startCycle s) = _
    rw [regHeader, top_append_low]
  rw [producerExec, hreg]
  exact congrArg (andThen · (exec .stopDone)) (andThen_next_right _)

/-- An offered output word is taken by `exec` of its operation. -/
theorem consumerExec_output {w : BitVec 9} {s : State} (hv : outValid s = true) (hw : outWord s = some w) (u : State) :
    consumerExec (tickOf (.output w)) s u = exec (decode (.output w)) u := by
  rw [consumerExec, if_pos ⟨rfl, hv⟩, hw]

/-- A cycle whose word is on a producer's port: what the producer's part is, and with one clock the synchronization. -/
theorem cycleExec_of_producer_word {t : Tick} {a : State} {r : Result} (hedge : t.edge = .clkP) (hout : t.outReady = false)
    (hsync : t.syncC2p = none) (hprod : producerExec t a (startCycle a) = r) :
    cycleExec t a = if a.build.asyncFifo = true then r else andThen r fun u => .next (syncAll u) := by
  have hc : consumerExec t a = .next := funext fun u => by simp [consumerExec, hout]
  have hs : c2pExec t = .next := funext fun u => by simp [c2pExec, hsync]
  simp only [cycleExec, hedge, hprod, hc, hs, andThen_next_right]

/-- A cycle that takes an offered output word: with two clocks that is all, and with one clock STOP_DONE comes before it. -/
theorem cycleExec_output {w : BitVec 9} {a : State} (hv : outValid a = true) (hw : outWord a = some w) :
    cycleExec (tickOf (.output w)) a =
      if a.build.asyncFifo = true then exec (decode (.output w)) a
      else andThen (andThen (exec .stopDone (startCycle a)) (exec (decode (.output w)))) fun u => .next (syncAll u) := by
  have hc : consumerExec (tickOf (.output w)) a = exec (decode (.output w)) := funext (consumerExec_output hv hw)
  have hs : p2cExec (tickOf (.output w)) = .next := rfl
  have hp : producerExec (tickOf (.output w)) a (startCycle a) = exec .stopDone (startCycle a) := rfl
  rw [cycleExec, hc, hs, hp, andThen_next_right]
  rfl

/-- Settles O33: a step runs the operations its cycle takes, and a cycle that offers one word takes one beside STOP_DONE. -/
theorem stepRunsTheDecodedOperation : Obligations.StepRunsTheDecodedOperation := by
  refine ⟨fun s p ts hl hp hout => ?_, fun u w hr => ?_, fun s t ts hl hp hr => step_eq_cycleExec hl hp hr⟩
  · rw [step_eq_cycleExec hl hp (by cases p <;> rfl)]
    cases p with
    | input w => exact cycleExec_of_producer_word rfl rfl rfl (producerExec_input w _)
    | output w => exact cycleExec_output (hout w rfl).1 (hout w rfl).2
    | register h v => exact cycleExec_of_producer_word rfl rfl rfl (producerExec_register h v _)
  · rw [decode, exec_decodeIn, if_pos hr]

end Sys2Proof.Machine
end

section
/-! Proofs of the frame queue's statements (42_frame_queue.md): the output signals, the two output beats, the synchronization of the counts,
and the stability of an offered byte. -/

namespace Sys2Proof.Machine

open Sys2Proof

section Head

/-! A frame `F` at the head of the queue with a byte at the offset (R116). -/

variable {s : State} {F : List Byte} {rest : List (List Byte)} {d : Byte}

theorem headByte_of_head (hQ : s.Q = F :: rest) (hd : F[s.rdOff]? = some d) : headByte s = some d := by
  simp [headByte, hQ, hd]

theorem headLast_iff_of_head (hQ : s.Q = F :: rest) (hd : F[s.rdOff]? = some d) :
    headLast s = true ↔ s.rdOff = F.length - 1 := by
  have hlt : s.rdOff < F.length := (List.getElem?_eq_some_iff.mp hd).1
  simp only [headLast, hQ, decide_eq_true_eq]
  omega

end Head

theorem outData_of_outValid {s : State} (hv : outValid s = true) : outData s = headByte s := if_pos hv

theorem outLast_of_outValid {s : State} (hv : outValid s = true) : outLast s = headLast s := by
  rw [outLast, hv, Bool.true_and]

/-- Settles O14: `out_valid` is the comparison of the counts, and it gates the other two signals. -/
theorem outputSignals : Obligations.OutputSignals := by
  refine fun s => ⟨fun hle => ?_, fun F rest d hlt hQ hd => ?_⟩
  · have hv : outValid s = false := Bool.eq_false_iff.mpr fun hv => Nat.not_lt.mpr hle ((outValid_iff s).mp hv)
    simp [hv, outData, outLast]
  · have hv : outValid s = true := (outValid_iff s).mpr hlt
    rw [outData_of_outValid hv, outLast_of_outValid hv]
    exact ⟨hv, headByte_of_head hQ hd, headLast_iff_of_head hQ hd⟩

/-- Settles O15: the byte is offered without `out_last`, so OUT_BYTE is performed. -/
theorem outByteRule : Obligations.OutByteRule := by
  intro s F rest d hlt hQ hd hmid
  have hl : headLast s = false := Bool.eq_false_iff.mpr (mt (headLast_iff_of_head hQ hd).mp hmid)
  rw [exec_of_ready _ s ((ready_outByte_iff s d).mpr ⟨(outValid_iff s).mpr hlt, headByte_of_head hQ hd, hl⟩)]
  rfl

/-- Settles O16: the byte is offered with `out_last`, so OUT_LAST is performed. -/
theorem outLastRule : Obligations.OutLastRule := by
  intro s F rest d hlt hQ hd hend
  have hl : headLast s = true := (headLast_iff_of_head hQ hd).mpr hend
  rw [exec_of_ready _ s ((ready_outLast_iff s d).mpr ⟨(outValid_iff s).mpr hlt, headByte_of_head hQ hd, hl⟩), perform,
    outLastOp, hQ, List.tail_cons]

/-- Settles O18: both operations are gated by the range of counts they may advance to. -/
theorem syncRules : Obligations.SyncRules := by
  intro s v
  simp only [exec, execSyncP2c, execSyncC2p, gated_next, p2cEnabled_iff, c2pEnabled_iff]
  exact ⟨rfl, rfl⟩

/-- Settles O40: a step never changes the build, so with one clock it ends in synchronized counts. -/
theorem countsSyncedAfterEveryCycle : Obligations.CountsSyncedAfterEveryCycle := by
  intro s t ha h
  obtain ⟨hp, hc⟩ := step_synced h ((congrArg Config.Build.asyncFifo (step_build h)).trans ha)
  exact ⟨hc, hp⟩

/-- A step in which the consumer accepts nothing pops nothing: it keeps the queue or appends to it, and the consumer's position stands. -/
theorem step_keeps_head_of_not_outReady {s t : State} (hr : (nextTick s).rst = false) (ho : (nextTick s).outReady = false)
    (h : step s = .next t) : (t.Q = s.Q ∨ ∃ F, t.Q = s.Q ++ [F]) ∧ t.rdCnt = s.rdCnt ∧ t.rdOff = s.rdOff := by
  have hkept : ∀ {x u : State}, consumerCycle (nextTick s) (advance s) x = .next u → u = x := fun hu => by
    rw [consumerCycle_of_not_ready ho] at hu
    injection hu with hu
    exact hu.symm
  have hQ := producerState_Q_cases (nextTick s) (advance s)
  rw [advance_Q] at hQ
  rcases step_next_cases hr h with ⟨_, u, hu, rfl⟩ | ⟨_, _, rfl⟩ | ⟨_, _, u, hu, rfl⟩
  · cases hkept hu
    exact ⟨hQ, by simp, by simp⟩
  · exact ⟨by simpa using hQ, by simp, by simp⟩
  · cases hkept hu
    exact ⟨.inl (by simp), by simp, by simp⟩

/-- Settles O42: no pop moves the consumer's position and no seen commit is unseen, so `out_valid` holds on; and the offered word is at the
other end of the queue than a commit. -/
theorem offeredByteIsStable : Obligations.OfferedByteIsStable := by
  intro s t hi hv hr ho h
  obtain ⟨hQ, hrd, hoff⟩ := step_keeps_head_of_not_outReady hr ho h
  obtain ⟨_, _, hseen, -⟩ := step_counts hi hr h
  obtain ⟨_, _, hq⟩ := hi
  obtain ⟨d, hd⟩ := headByte_of_outValid hq hv
  have hword : outWord t = some (outWordOf (headLast s) d) :=
    outWord_of_append ((outWord_eq_some_iff s _ d).mpr ⟨hd, rfl⟩) hQ hoff
  obtain ⟨hd', hl'⟩ := (outWord_eq_some_iff t _ d).mp hword
  have hv' : outValid t = true := by
    rw [outValid_iff] at hv ⊢
    omega
  rw [outData_of_outValid hv, outData_of_outValid hv', outLast_of_outValid hv, outLast_of_outValid hv']
  exact ⟨hv', hd'.trans hd.symm, hl'⟩

end Sys2Proof.Machine
end

section
/-! Proofs of the register operations' statements (43_control_registers.md): the two writes, and the value each read drives, field by field. -/

namespace Sys2Proof.Machine

open Sys2Proof

/-- START and STOP write `mode` and `stopReq` only (R129). -/
theorem startStop_eq (v : Word) (s : State) :
    startStop v s = { s with mode := (startStop v s).mode, stopReq := (startStop v s).stopReq } := by
  unfold startStop
  repeat' split
  all_goals rfl

/-- Settles O19: `mode` and `stopReq` by START and STOP, the log by CLEAR_LOG, and nothing else by either. -/
theorem wrCtrlRule : Obligations.WrCtrlRule := by
  intro s v
  rw [← wrCtrlOp_mode, ← wrCtrlOp_stopReq]
  show Host.Outcome.next (wrCtrlOp v s) = _
  rw [wrCtrlOp, startStop_eq]
  cases v.getLsbD 2 <;> rfl

/-- Settles O20: a write header of another address than 0x00 selects WR_IGNORED, which skips. -/
theorem wrIgnoredRule : Obligations.WrIgnoredRule := by
  refine fun s addr v => ⟨rfl, fun ha => ?_⟩
  have hd : decode (.register (1#1 ++ addr) v) = .wrIgnored addr v := (decodeReg_write addr v).trans (if_neg ha)
  rw [hd]
  rfl

/-- The registers stand at the multiples of 4 up to 0x24 (R32). -/
theorem aligned_of_mem_namedAddresses : ∀ a ∈ namedAddresses, a.toNat % 4 = 0 ∧ a.toNat ≤ 0x24 := by decide

/-- Settles O21: an address off the multiples of 4 or past the last register names none, so its read is RD_RSVD. -/
theorem zeroReads : Obligations.ZeroReads := by
  refine fun s addr v => ⟨rfl, rfl, fun hout => ?_⟩
  have hna : addr ∉ namedAddresses := fun hmem => by
    have := aligned_of_mem_namedAddresses addr hmem
    omega
  have hd : decode (.register (0#1 ++ addr) v) = .rdRsvd addr :=
    (decodeReg_read addr v).trans ((decodeRead_cases addr).resolve_left hna).2
  rw [hd]
  rfl

/-! Zero extension and the low eight bits (R9). -/

theorem zext32_toNat {n : Nat} (h : n ≤ 32) (v : BitVec n) : (zext32 v).toNat = v.toNat := BitVec.toNat_setWidth_of_le h

/-- Zero extension keeps each field of a word that fits. -/
theorem zext32_field {n start len : Nat} (h : start + len ≤ 32) (v : BitVec n) :
    (zext32 v).extractLsb' start len = v.extractLsb' start len := BitVec.extractLsb'_setWidth_of_le h

theorem zext32_bit {n i : Nat} (h : i < 32) (v : BitVec n) : (zext32 v).getLsbD i = v.getLsbD i := by
  rw [zext32, BitVec.getLsbD_setWidth, decide_eq_true h, Bool.true_and]

/-- Zero extension leaves nothing above the word it extends. -/
theorem zext32_above {n start len : Nat} (h : n ≤ start) (v : BitVec n) : (zext32 v).extractLsb' start len = 0 := by
  apply BitVec.eq_of_getLsbD_eq
  intro i _
  simp [zext32, BitVec.getLsbD_of_ge v (start + i) (by omega)]

/-- `u8` is the remainder modulo 256, of a negative integer too (R9). -/
theorem u8_toNat (v : Int) : ((u8 v).toNat : Int) = v % 256 := by
  rw [u8, BitVec.toNat_ofInt]
  omega

/-- The bits of STATUS above `mode`, from bit 2 up (R131). -/
theorem statusWord_flags (s : State) :
    (statusWord s).getLsbD 2 = s.stopReq ∧ (statusWord s).getLsbD 3 = s.inRead ∧ (statusWord s).getLsbD 4 = s.scanning ∧
    (statusWord s).getLsbD 5 = s.evalPending ∧ (statusWord s).getLsbD 6 = wEmpty s ∧ (statusWord s).getLsbD 7 = lenPresent s ∧
    (statusWord s).getLsbD 8 = complete s ∧ (statusWord s).getLsbD 9 = s.ovf ∧ (statusWord s).getLsbD 10 = qEmpty s ∧
    (statusWord s).getLsbD 11 = qFull s ∧ (statusWord s).getLsbD 12 = s.stkZlen ∧ (statusWord s).getLsbD 13 = s.stkCsum ∧
    (statusWord s).getLsbD 14 = s.stkOvf ∧ (statusWord s).getLsbD 15 = s.stkXport := by
  simp only [statusWord, zext32, BitVec.getLsbD_setWidth, BitVec.getLsbD_append]
  simp

/-- Bits 1:0 of STATUS are `mode` (R131). -/
theorem statusWord_mode (s : State) : (statusWord s).extractLsb' 0 2 = s.mode.bits := by
  rw [statusWord, zext32_field (by decide), BitVec.extractLsb'_append_eq_right]

/-- `COMPLETE` by the working frame's length byte (R29, R84). -/
theorem complete_eq (s : State) :
    complete s = decide (2 ≤ s.W.length ∧ (s.W.getD 1 0).toNat + 3 ≤ s.W.length) := by
  rw [Bool.eq_iff_iff, decide_eq_true_iff]
  exact isCompletePacket_iff s.W

/-- Settles O22: each bit of STATUS is the flag or the state element its rule names. -/
theorem statusRule : Obligations.StatusRule := by
  intro s
  obtain ⟨h2, h3, h4, h5, h6, h7, h8, h9, h10, h11, h12, h13, h14, h15⟩ := statusWord_flags s
  refine ⟨statusWord s, rfl, ?mode, h2, h3, h4, h5, h6, h7, h8.trans (complete_eq s), h9, h10, h11, h12, h13, h14, h15,
    zext32_above (by decide) _⟩
  rw [statusWord_mode]
  cases s.mode <;> rfl

/-- Settles O23: QCOUNT is the producer's count modulo 256, which R31 (g) bounds by `Q_FRAMES` and R7 by 255; WPOS is `|W|`, which R31 (a)
bounds by `BUF_BYTES`. -/
theorem qcountAndWposRule : Obligations.QcountAndWposRule := by
  intro s
  have hq : ((qcountWord s).toNat : Int) = ((s.wrCnt : Int) - s.rdSeenP) % 256 := by
    rw [qcountWord, zext32_toNat (by decide), u8_toNat, pCount]
  have hw : (wposWord s).toNat = s.W.length % 4294967296 := BitVec.toNat_ofNat ..
  refine ⟨⟨qcountWord s, rfl, hq, fun hi => ?_⟩, ⟨wposWord s, rfl, hw, fun hi => ?_⟩⟩
  · obtain ⟨hl, _, hseen, hpopped, hcommitted, hroom, -⟩ := hi
    have := (legal_iff s.build).mp hl
    omega
  · obtain ⟨hl, ⟨hbuf, -⟩, _⟩ := hi
    have := (legal_iff s.build).mp hl
    omega

/-- Settles O24, by zero extension. -/
theorem counterReads : Obligations.CounterReads := fun s =>
  have hz (c : Counter) : (zext32 c).toNat = c.toNat := zext32_toNat (by decide) c
  ⟨_, _, _, _, rfl, hz s.cntFrames, rfl, hz s.cntZlen, rfl, hz s.cntCsum, rfl, hz s.cntOvf⟩

/-- The fields of PARAMS (R138). -/
theorem paramsWord_fields (b : Config.Build) :
    (paramsWord b).extractLsb' 0 16 = BitVec.ofNat 16 b.bufBytes ∧ (paramsWord b).extractLsb' 16 8 = u8 b.qFrames ∧
    (paramsWord b).getLsbD 24 = b.asyncFifo ∧ (paramsWord b).extractLsb' 25 7 = 0 := by
  refine ⟨?buf, ?frames, ?async, zext32_above (by decide) _⟩
  case buf => rw [paramsWord, zext32_field (by decide), BitVec.extractLsb'_append_eq_right]
  case frames =>
    rw [paramsWord, zext32_field (by decide), BitVec.extractLsb'_append_eq_of_le (by decide)]
    exact BitVec.extractLsb'_append_eq_right
  case async =>
    rw [paramsWord, zext32_bit (by decide), BitVec.getLsbD_append, BitVec.getLsbD_append]
    simp

/-- Settles O25: in the ranges of R7 both numbers fit their fields. -/
theorem paramsRule : Obligations.ParamsRule := by
  intro s hl
  obtain ⟨_, hbuf, _, hframes⟩ := (legal_iff s.build).mp hl
  obtain ⟨h0, h16, h24, h25⟩ := paramsWord_fields s.build
  refine ⟨paramsWord s.build, rfl, ?_, ?_, h24, h25⟩
  · rw [h0, BitVec.toNat_ofNat]
    omega
  · rw [h16, u8_natCast, BitVec.toNat_ofNat]
    omega

/-- Settles O26: RD_ID reads no element of the state. -/
theorem idRule : Obligations.IdRule := fun _ => rfl

end Sys2Proof.Machine
end

section
/-! Proofs of the exceptional events' statements (60_exceptions.md): a failed read beside a write of CTRL (R149 (d)), and a read longer than
the buffer (R144). -/

namespace Sys2Proof.Machine

open Sys2Proof

/-- A failed beat accepted beside a write of CTRL fails what the write leaves, and no stop is done in FAIL (R105 to R107). -/
theorem producerState_ctrl_and_inErr {t : Tick} {s : State} {v : Word} {x : BitVec 9} (hreg : t.reg = some ⟨true, 0, v⟩)
    (hb : t.beat = some (0b1#1 ++ x)) (hready : inReady s = true) :
    producerState t s = inErrOp (wrCtrlOp v (startCycle s)) := by
  rw [producerState, regPart_of_ctrl hreg, enginePart_of_accepted hb hready, beatState_inErr,
    stopPart_of_not_enabled (stopEnabled_of_not_run (by simp))]

/-- Settles O48: the stop is requested first, in RUN, and the failed beat then leaves RUN with the request kept. -/
theorem stopInTheCycleOfATransportFailure : Obligations.StopInTheCycleOfATransportFailure := by
  intro s t v x hr hreg hv hb hc hready h
  obtain ⟨hm, _⟩ := (inReady_iff s).mp hready
  obtain ⟨_, hstop⟩ := wrCtrlOp_stop (s := startCycle (advance s)) hv (by simpa using hm)
  obtain ⟨htm, _, _, _, _, _, hts, _, _, _, _, _, _, _, _, htx, hte⟩ := step_producer hr hc h
  rw [producerState_ctrl_and_inErr hreg hb (by simpa using hready)] at htm hts htx hte
  have hcode : errCode t = 3 := by rw [errCode, hte]; rfl
  exact ⟨by simp [htm], by simp [hts, hstop], hcode, by simp [htx]⟩

/-- `s` once a read that did not fit has left part of itself, `V`, in the working frame, its EVAL to come (R99 (c), R100). -/
def readOverflowed (V : List Byte) (s : State) : State := { readDone V s with ovf := true }

/-- A scanned read that begins with the sentinel and does not fit ends with `ovf` set (R98, R99). -/
theorem deliverRead_sentinel_overlong {s : State} {r : List Byte} (hs : s.IdleRun) (hl : s.build.legal = true)
    (hh : r.head? = some 0x13) (hlong : s.build.bufBytes < r.length) :
    ∃ V, deliverRead r s = .next (readOverflowed V s) := by
  obtain ⟨hm, hW, hin, hsc, _, hp, hst⟩ := hs
  have hbuf := bufBytes_of_legal hl
  match r, hh with
  | [_], _ => rw [List.length_singleton] at hlong; omega
  | d :: e :: r, hh =>
    obtain rfl : d = 0x13 := Option.some.inj hh
    have hfirst : exec (.inByte 0x13) s = .next { s with scanning := false, W := [0x13], inRead := true } := by
      rw [inByteRule s 0x13 hm hp (.inl hst), if_pos (.inl ⟨hin, hW⟩), if_pos rfl]
    obtain ⟨V, _, hrest⟩ := deliverRead_overlong (e :: r) { s with scanning := false, W := [0x13], inRead := true }
      hm hp hst (by simp [scans]) (by simp) (by simpa [Nat.add_comm] using hlong) (by simp) (by simp; omega)
    refine ⟨V, ?_⟩
    rw [deliverRead, hfirst, andThen_next, hrest]
    simp [readOverflowed, readDone, hin, hsc]

/-- EVAL of a read that did not fit clears what is left of it, with BUF_OVERFLOW, whatever it looks like (R102, R141). -/
theorem exec_eval_of_overflow {s : State} (V : List Byte) (hs : s.IdleRun) :
    exec .eval (readOverflowed V s) = .next (raiseErr .bufOverflow s) := by
  obtain ⟨_, hW, _, _, hovf, hp, _⟩ := hs
  have ho : evalOutcome (readOverflowed V s) = .ovf := evalOutcome_of_ovf rfl
  rw [exec_eval_of_no_frame rfl (by simp [ho]), evalState, ho]
  simp [evalDone, raiseErr, clearW, readOverflowed, readDone, hW, hovf, hp]

/-- Settles O59: the read overflows the buffer, and its EVAL tests `ovf` before it looks for a frame. -/
theorem overlongReadIsDropped : Obligations.OverlongReadIsDropped := by
  intro s r hs hl hh hlong
  obtain ⟨V, hread⟩ := deliverRead_sentinel_overlong hs hl hh hlong
  rw [deliverReads_singleton, hread, andThen_next, exec_eval_of_overflow V hs]
  rfl

end Sys2Proof.Machine
end

section
/-! Proofs of the reset statements (70_reset_and_hazards.md): the state RESET leaves (R160), and what the ports show of it (R161). -/

namespace Sys2Proof.Machine

open Sys2Proof

/-- Settles O2: RESET reads no element but the build, and what the neighbours offer is not state of the block (R15, R44). -/
theorem resetOperation : Obligations.ResetOperation := fun _ => rfl

/-- Concatenation as a number: the upper part counts multiples of `2 ^ m`. -/
theorem append_toNat {n m : Nat} (x : BitVec n) (y : BitVec m) : (x ++ y).toNat = 2 ^ m * x.toNat + y.toNat := by
  rw [BitVec.toNat_append, ← Nat.shiftLeft_add_eq_or_of_lt y.isLt, Nat.shiftLeft_eq, Nat.mul_comm]

/-- PARAMS of a legal build as one number: in the ranges of R7 no field spills into the next (R138). -/
theorem paramsWord_of_legal {b : Config.Build} (hl : b.legal = true) :
    paramsWord b = BitVec.ofNat 32 (b.bufBytes + 65536 * b.qFrames + 16777216 * b.asyncFifo.toNat) := by
  obtain ⟨_, hbuf, _, hframes⟩ := (legal_iff b).mp hl
  have hasync := b.asyncFifo.toNat_lt
  apply BitVec.eq_of_toNat_eq
  rw [paramsWord, zext32_toNat (by decide), append_toNat, append_toNat, u8_natCast, BitVec.toNat_ofBool, BitVec.toNat_ofNat,
    BitVec.toNat_ofNat, BitVec.toNat_ofNat]
  omega

/-- After reset of a legal build the queue is not full: it is empty and holds at least one frame (R7, R34). -/
theorem qFull_resetOf {b : Config.Build} (hl : b.legal = true) : qFull (State.resetOf b) = false := by
  obtain ⟨_, _, hframes, _⟩ := (legal_iff b).mp hl
  simp only [qFull, decide_eq_false_iff_not]
  show ¬(0 : Int) = b.qFrames
  omega

/-- STATUS after reset of a legal build shows W_EMPTY and Q_EMPTY and nothing else (R131, R161). The build is seen in `Q_FULL` only, so the
reference build shows what every build does. -/
theorem statusWord_resetOf {b : Config.Build} (hl : b.legal = true) : statusWord (State.resetOf b) = 0x00000440 := by
  calc statusWord (State.resetOf b) = statusWord State.reset := by
        rw [statusWord, statusWord, qFull_resetOf hl, State.reset, qFull_resetOf (by decide)]
        rfl
    _ = 0x00000440 := by decide

/-- Settles O4: no beat is accepted in STOPPED, both counts behind `out_valid` are 0, and STATUS and PARAMS read the words above. -/
theorem afterReset : Obligations.AfterReset := by
  intro b hl
  have hstopped : (State.resetOf b).mode = .stopped := rfl
  refine ⟨hstopped, fun d x => beatNotAccepted _ d x (.inl (by simp [hstopped])), rfl, ?status, ?params, idRule _⟩
  case status => rw [← statusWord_resetOf hl]; rfl
  case params => rw [← paramsWord_of_legal hl]; rfl

end Sys2Proof.Machine
end
